-- ==== Sys2Proof/Word.lean ====
section
/-! DEFINITION. The word types of the block: bytes, 64-bit registers, 32-bit key fields (00_scope.md R7, R9). -/

namespace Sys2Proof

/-- An 8-bit value: a character code or one byte of a byte vector (00_scope.md R13, R16). -/
abbrev Byte := BitVec 8

/-- A 64-bit register or command word; bit 0 is the least significant (00_scope.md R7, R9). -/
abbrev Word := BitVec 64

/-- A 32-bit key field, the used half of KP, KQ or KE (00_scope.md R7, 10_state.md R33). -/
abbrev KeyWord := BitVec 32

end Sys2Proof
end

