-- ==== Sys2Proof/Config.lean ====
section
/-! DEFINITION. What a platform fixes (BASE_ADDR, 00_scope.md R8) and the fixed sizes and key of 00_scope.md R7. -/

namespace Sys2Proof.Config

/-- BASE_ADDR divided by 0x100. The platform chooses it, so it is a constant with no body: no proof can see
its value (00_scope.md R8, 92_eei_decisions.md D4; log entry 4). -/
opaque basePage : Nat

/-- The register window is 0x100 bytes (00_scope.md R7, 20_memory.md R60). -/
abbrev windowSize : Nat := 0x100

/-- The physical address of the register window, a multiple of 0x100 (00_scope.md R8). -/
def baseAddr : Nat := windowSize * basePage

/-- The only legal access size, in bytes (20_memory.md R62). -/
abbrev accessBytes : Nat := 8

/-- Reset value of KP: the source's p (10_state.md R33). -/
abbrev resetP : KeyWord := 2795287379#32

/-- Reset value of KQ: the source's q (10_state.md R33). -/
abbrev resetQ : KeyWord := 3544934711#32

/-- Reset value of KE: the source's e (10_state.md R33). -/
abbrev resetE : KeyWord := 41#32

end Sys2Proof.Config
end

