-- ==== Sys2Proof/Syntax.lean ====
section
/-! DEFINITION. The command set (30_encoding.md R82): one constructor per row of spec/opcode_table.json. -/

namespace Sys2Proof

/-- A legal command. No command carries an operand: every operand comes from the latched registers
(30_encoding.md R80, R85). -/
inductive Instr where
  /-- Decode the 16-symbol code (40_code_decoder.md R100). -/
  | codedec
  /-- Full 64 x 64 to 128 bit multiply (41_multiplier.md R111). -/
  | mul
  /-- Modular multiply (41_multiplier.md R112). -/
  | mulmod
  /-- Modular exponentiation (42_modpow.md R120). -/
  | modpow
  /-- Extended Euclidean algorithm (43_extgcd.md R131). -/
  | extgcd
  /-- Modular inverse (43_extgcd.md R133). -/
  | modinv
  /-- Derive the private key values (44_crt.md R142). -/
  | keyderive
  /-- Decrypt by the Chinese Remainder Theorem (44_crt.md R143). -/
  | crtdec
  /-- Encode the password (45_password_encoder.md R160). -/
  | pwenc
  /-- Decode a code to a password (46_decode_password.md R170). -/
  | decodepw
  deriving DecidableEq, Repr

end Sys2Proof
end

