-- ==== Sys2Proof/Machine/Bus.lean ====
section
/-! DEFINITION. The vocabulary of the bus and of the agents: registers and their offsets, accesses, responses,
the Host notation's base instructions, turns (10_state.md R34, 20_memory.md R60 to R65, 30_encoding.md R88, 00_scope.md R17). -/

namespace Sys2Proof.Machine

/-- The registers of the window, in the order of the map (10_state.md R34). -/
inductive Reg where
  | id | ctrl | status | cmd
  | opa | opb | opc
  | kp | kq | ke
  | res0 | res1 | res2 | res3
  deriving DecidableEq, Repr

/-- `off(REG)`: the offset of a register in the window (10_state.md R34, 30_encoding.md R88). -/
def Reg.offset : Reg → Nat
  | .id => 0x00
  | .ctrl => 0x08
  | .status => 0x10
  | .cmd => 0x18
  | .opa => 0x20
  | .opb => 0x28
  | .opc => 0x30
  | .kp => 0x38
  | .kq => 0x40
  | .ke => 0x48
  | .res0 => 0x50
  | .res1 => 0x58
  | .res2 => 0x60
  | .res3 => 0x68

/-- Every register, in the order of the map (10_state.md R34). -/
def Reg.all : List Reg :=
  [.id, .ctrl, .status, .cmd, .opa, .opb, .opc, .kp, .kq, .ke, .res0, .res1, .res2, .res3]

/-- What an access does: `MemRead`, or `MemWrite` of a value (00_scope.md R12). The value of a write that is
not 8 bytes wide is never used: such a write is a bus error (20_memory.md R62). -/
inductive AccessKind where
  | read
  | write (v : Word)
  deriving DecidableEq, Repr

/-- One Host access as it arrives: physical address, width in bytes, kind (00_scope.md R12, 20_memory.md R60). -/
structure Access where
  addr  : Nat
  width : Nat
  kind  : AccessKind
  deriving DecidableEq, Repr

/-- What the block drives back for an access (20_memory.md R61, R65, R66). -/
inductive Response where
  /-- The block drove nothing: no access yet, a reset, or an access outside the window (R61). -/
  | idle
  /-- A legal write. -/
  | ack
  /-- A legal read, with its data. -/
  | data (v : Word)
  /-- A bus error (R65). -/
  | error
  deriving DecidableEq, Repr

/-- The read data that comes with a response: a bus error returns read data 0 (20_memory.md R65). -/
def Response.readData : Response → Word
  | .idle => 0
  | .ack => 0
  | .data v => v
  | .error => 0

/-- The Host notation's base instructions (30_encoding.md R88); a label is the index of an instruction in the
Host's program (log entry 7). -/
inductive HostInstr where
  /-- `wr REG, imm64` -/
  | wrImm (r : Reg) (imm : Word)
  /-- `wr REG, tN` -/
  | wrTemp (r : Reg) (t : Fin 8)
  /-- `rd REG, tN` -/
  | rd (r : Reg) (t : Fin 8)
  /-- `bset tN, mask, label` -/
  | bset (t : Fin 8) (mask : Word) (label : Nat)
  /-- `halt` -/
  | halt
  deriving DecidableEq, Repr

/-- One turn of the schedule: which agent moves (00_scope.md R17; log entry 1). -/
inductive Turn where
  /-- The Host agent that State holds executes its next instruction (30_encoding.md R88). -/
  | host
  /-- An access of any Host arrives at the block (20_memory.md R71, R73). -/
  | access (a : Access)
  /-- The Engine's completion step, if it is enabled (60_exceptions.md R181). -/
  | engine
  /-- The reset input is asserted and released (70_reset_and_hazards.md R200). -/
  | reset
  deriving DecidableEq, Repr

end Sys2Proof.Machine
end

