-- ==== Sys2Proof/Machine/State.lean ====
section
/-! DEFINITION. The machine's state (10_state.md R20), the reasons a step can stop, and the state after reset
(10_state.md R44, 70_reset_and_hazards.md R200). -/

namespace Sys2Proof.Machine

/-- OPA, OPB and OPC (10_state.md R22). -/
structure OperandRegs where
  opa : Word
  opb : Word
  opc : Word
  deriving DecidableEq, Repr

/-- The used halves, bits [31:0], of KP, KQ and KE (10_state.md R33); bits [63:32] are hard-wired to 0 and
appear in `readReg` (log entry 9). -/
structure KeyRegs where
  kp : KeyWord
  kq : KeyWord
  ke : KeyWord
  deriving DecidableEq, Repr

/-- RES0 to RES3 (10_state.md R23). -/
structure ResultRegs where
  res0 : Word
  res1 : Word
  res2 : Word
  res3 : Word
  deriving DecidableEq, Repr

/-- The fields of STATUS but BUSY, which is `ENG.busy` and has its one home there (10_state.md R26 to R31). -/
structure StatusFlags where
  done    : Bool
  err     : Bool
  overrun : Bool
  errcode : Byte
  lastop  : Byte
  deriving DecidableEq, Repr

/-- The latched operands `L` (10_state.md R40). -/
structure Latch where
  operands : OperandRegs
  key      : KeyRegs
  deriving DecidableEq, Repr

/-- The Engine: `ENG.busy`, `ENG.cmd` and `L` (10_state.md R21, R40). -/
structure Engine where
  busy  : Bool
  cmd   : Word
  latch : Latch
  deriving DecidableEq, Repr

/-- The Host agent: temporaries t0 to t7, its program, and its position in it (30_encoding.md R88). It is not
part of the hardware (92_eei_decisions.md D29; log entry 7). -/
structure HostAgent where
  temps   : Vector Word 8
  program : List HostInstr
  pos     : Nat
  deriving DecidableEq, Repr

/-- The state of the machine. The first six fields are the block's registers and Engine (10_state.md R20); the
last three are the model's own: the last bus response, the Host agent, and the turns still to come. -/
structure State where
  /-- CTRL.IE (10_state.md R25). -/
  ie       : Bool
  status   : StatusFlags
  operands : OperandRegs
  key      : KeyRegs
  results  : ResultRegs
  engine   : Engine
  response : Response
  host     : HostAgent
  schedule : List Turn
  deriving DecidableEq, Repr

/-- Why a run stops. -/
inductive Fault where
  /-- A bus error: an access in the window that is not 8 bytes wide, is misaligned, or is at a reserved offset
  (20_memory.md R62, R63). Raised by the step of the agent whose access it is. The block's state is unchanged
  (R65); R65 tells a model to treat it as a fault of the Host program. Safe: the model stops where a platform
  may let its Host go on. -/
  | busError (a : Access)
  deriving DecidableEq, Repr

/-- Why a step is refused. -/
inductive Refusal where
  /-- An instruction that has no meaning yet, by its mnemonic in spec/opcode_table.json. Raised by `exec`'s
  refused arms only, of which there are none. Safe. -/
  | notModelled (mnemonic : String)
  deriving DecidableEq, Repr

/-- The machine right after reset (10_state.md R44, 70_reset_and_hazards.md R200). The Host agent has an empty
program and the schedule is empty (log entries 2, 3, 6, 7). -/
def State.reset : State where
  ie := false
  status := { done := false, err := false, overrun := false, errcode := 0, lastop := 0 }
  operands := { opa := 0, opb := 0, opc := 0 }
  key := { kp := Config.resetP, kq := Config.resetQ, ke := Config.resetE }
  results := { res0 := 0, res1 := 0, res2 := 0, res3 := 0 }
  engine :=
    { busy := false
      cmd := 0
      latch := { operands := { opa := 0, opb := 0, opc := 0 }, key := { kp := 0, kq := 0, ke := 0 } } }
  response := .idle
  host := { temps := Vector.replicate 8 0, program := [], pos := 0 }
  schedule := []

end Sys2Proof.Machine
end

