-- ==== Sys2Proof/Machine/Operands.lean ====
section
/-! DEFINITION. The operand and result formats of 30_encoding.md R84 (U64, U32K, BYTES8, CHARS8, S64), and the
notation of 00_scope.md R9, R10 and R13 they rest on. -/

namespace Sys2Proof.Machine

/-- `v[hi:lo]`, on a mathematical integer (00_scope.md R9). -/
def bits (v hi lo : Nat) : Nat := (v >>> lo) % 2 ^ (hi - lo + 1)

/-- `byte(v, i) = v[8i+7:8i]` (00_scope.md R9). On the bus it is byte lane i (20_memory.md R68). -/
def byteOf (v : Word) (i : Nat) : Byte := v.extractLsb' (8 * i) 8

/-- The eight bytes of a register, byte 0 first: the reading of a BYTES8 or CHARS8 operand (30_encoding.md R84). -/
def bytesOf (v : Word) : List Byte :=
  [byteOf v 0, byteOf v 1, byteOf v 2, byteOf v 3, byteOf v 4, byteOf v 5, byteOf v 6, byteOf v 7]

/-- `sum over i of b_i * 2^(8i)`: a byte vector as an unsigned integer (20_memory.md R67). -/
def bytesValue : List Byte → Nat
  | [] => 0
  | b :: rest => b.toNat + 2 ^ 8 * bytesValue rest

/-- Pack bytes into a register, byte i of the list at byte i, unused high bytes 0: a BYTES8 or CHARS8 result
(30_encoding.md R84, R89). -/
def packBytes (bs : List Byte) : Word := BitVec.ofNat 64 (bytesValue bs)

/-- The US-ASCII code of a character (00_scope.md R13). -/
def ascii (c : Char) : Byte := BitVec.ofNat 8 c.toNat

/-- A string of up to 8 characters as a CHARS8 value, the first character in the lowest byte (20_memory.md R69). -/
def packChars (cs : List Char) : Word := packBytes (cs.map ascii)

/-- The U64 value of a register (30_encoding.md R84). -/
def u64 (v : Word) : Nat := v.toNat

/-- A natural number as a U64 result. -/
def ofU64 (n : Nat) : Word := BitVec.ofNat 64 n

/-- The U32K value of a key field (30_encoding.md R84). -/
def u32k (k : KeyWord) : Nat := k.toNat

/-- A key register as it reads: bits [63:32] are 0 (10_state.md R33, `zext_64` of 00_scope.md R10). -/
def keyRead (k : KeyWord) : Word := k.setWidth 64

/-- What a write of `v` leaves in a key register: `v[31:0]` (10_state.md R33). -/
def keyWrite (v : Word) : KeyWord := v.setWidth 32

/-- `tc64(x) = x mod 2^64`: an S64 result (00_scope.md R10, 30_encoding.md R84). -/
def tc64 (x : Int) : Word := BitVec.ofInt 64 x

/-- `sext_64(v)`: the signed integer an S64 register holds (00_scope.md R10). -/
def sext64 (v : Word) : Int := v.toInt

/-- `a mod m` for m >= 1: the residue in [0, m), non-negative also for negative a (00_scope.md R10,
43_extgcd.md R135). -/
def residue (a : Int) (m : Nat) : Nat := (a % (m : Int)).toNat

end Sys2Proof.Machine
end

