-- ==== Sys2Proof/Machine/Flags.lean ====
section
/-! DEFINITION. STATUS, the interrupt output and the error codes (10_state.md R26 to R31, R41,
60_exceptions.md R183). There is no arithmetic flag (10_state.md R35). -/

namespace Sys2Proof.Machine

/-- The errors a command can end with (60_exceptions.md R183). The code 0x00, NONE, is not among them: it is
ERRCODE's value while ERR = 0. -/
inductive CmdError where
  | illegalCommand
  | badModulus
  | noModinv
  | invalidSymbol
  | keyInvalid
  deriving DecidableEq, Repr

/-- The ERRCODE of an error (60_exceptions.md R183). -/
def CmdError.code : CmdError → Byte
  | .illegalCommand => 0x01
  | .badModulus => 0x02
  | .noModinv => 0x03
  | .invalidSymbol => 0x04
  | .keyInvalid => 0x05

/-- STATUS as it reads, most significant field first: [63:24] reserved, LASTOP, ERRCODE, [7:4] reserved,
OVERRUN, ERR, DONE, BUSY (10_state.md R26). -/
def statusWord (s : State) : Word :=
  0#40 ++ s.status.lastop ++ s.status.errcode ++ 0#4 ++ BitVec.ofBool s.status.overrun ++
    BitVec.ofBool s.status.err ++ BitVec.ofBool s.status.done ++ BitVec.ofBool s.engine.busy

/-- The STATUS fields after a write of `v`: DONE, ERR with ERRCODE, and OVERRUN are write-one-to-clear; every
other field ignores the write (10_state.md R26 to R31, 20_memory.md R64). -/
def clearStatus (v : Word) (f : StatusFlags) : StatusFlags :=
  { done := f.done && !v.getLsbD 1
    err := f.err && !v.getLsbD 2
    overrun := f.overrun && !v.getLsbD 3
    errcode := if v.getLsbD 2 then 0 else f.errcode
    lastop := f.lastop }

/-- The interrupt output, `irq = CTRL.IE & STATUS.DONE`, level-sensitive and not latched (10_state.md R41,
60_exceptions.md R186). -/
def State.irq (s : State) : Bool := s.ie && s.status.done

end Sys2Proof.Machine
end

