-- ==== Sys2Proof/Machine/Tables.lean ====
section
/-! DEFINITION. The constants a register or a unit reads: the ID value, CODE_LUT and PW_LUT
(10_state.md R24, R42, R43). They are ROM and have no address (20_memory.md R60). -/

namespace Sys2Proof.Machine

/-- ID: MAGIC "MEXE", DOCREV 7, MAPREV 1 (10_state.md R24). -/
def idValue : Word := 0x4D45584500070001

/-- CODE_ALPHABET `"9DPK7V2F3RT6HX8J"` as character codes, index 0 first (10_state.md R42). -/
def codeAlphabet : List Byte :=
  ['9', 'D', 'P', 'K', '7', 'V', '2', 'F', '3', 'R', 'T', '6', 'H', 'X', '8', 'J'].map ascii

/-- PW_ALPHABET `"47592836"` as character codes, index 0 first (10_state.md R43). -/
def pwAlphabet : List Byte := ['4', '7', '5', '9', '2', '8', '3', '6'].map ascii

/-- `indexOf(A, c)`: the position of c in A, counted from 0; `none` where the spec writes -1 (00_scope.md R14). -/
def indexOf (alphabet : List Byte) (c : Byte) : Option Nat := alphabet.idxOf? c

/-- A result of CODE_LUT: `{valid, index[3:0]}` (10_state.md R42). -/
structure CodeEntry where
  valid : Bool
  index : BitVec 4
  deriving DecidableEq, Repr

/-- CODE_LUT: a symbol's code maps to (1, its index), every other code to (0, 0) (10_state.md R42). -/
def codeLut (c : Byte) : CodeEntry :=
  match indexOf codeAlphabet c with
  | some i => { valid := true, index := BitVec.ofNat 4 i }
  | none => { valid := false, index := 0 }

/-- PW_ALPHABET has one symbol for each 3-bit value (10_state.md R43). -/
theorem pwAlphabet_length : pwAlphabet.length = 8 := rfl

/-- PW_LUT: the code of `PW_ALPHABET[f]`, total on 3-bit fields (10_state.md R43). -/
def pwLut (f : BitVec 3) : Byte := pwAlphabet[f.toNat]'(by have := f.isLt; rw [pwAlphabet_length]; omega)

end Sys2Proof.Machine
end

