-- ==== Sys2Proof/Machine/Ops.lean ====
section
/-! DEFINITION. The shared operations: issue, the two completions, the acknowledgement, register reads and writes,
and one Host access (60_exceptions.md R180 to R182, R188; 10_state.md R22 to R34; 20_memory.md R60 to R66). -/

namespace Sys2Proof.Machine

/-- Issue of command word `v` by an idle Engine: latch the word, the operands and the key; clear DONE, ERR and
ERRCODE; record LASTOP; become busy (60_exceptions.md R180, 10_state.md R40). -/
def State.issue (v : Word) (s : State) : State :=
  { s with
    engine := { busy := true, cmd := v, latch := { operands := s.operands, key := s.key } }
    status :=
      { done := false
        err := false
        overrun := s.status.overrun
        errcode := 0
        lastop := v.setWidth 8 } }

/-- Successful completion: all four results, DONE, idle. ERR and ERRCODE are not written: issue left them 0
(60_exceptions.md R181; log entry 11). -/
def State.complete (r : ResultRegs) (s : State) : State :=
  { s with
    results := r
    status := { s.status with done := true }
    engine := { s.engine with busy := false } }

/-- Error completion, the block's one way of taking an exception: results zero, ERR, ERRCODE, DONE, idle
(60_exceptions.md R182, R187). -/
def State.raise (e : CmdError) (s : State) : State :=
  { s with
    results := { res0 := 0, res1 := 0, res2 := 0, res3 := 0 }
    status := { s.status with done := true, err := true, errcode := e.code }
    engine := { s.engine with busy := false } }

/-- A Host write of `v` to STATUS (10_state.md R28 to R30). -/
def State.writeStatus (v : Word) (s : State) : State := { s with status := clearStatus v s.status }

/-- The acknowledgement, which stands where a processor has a return from exception: a write of 0xE to STATUS
(60_exceptions.md R188, 30_encoding.md R89). -/
def State.acknowledge (s : State) : State := s.writeStatus 0xE

/-- The end of a command's pseudocode: `complete(...)` or `raise E` (00_scope.md R12). -/
def finish (c : Except CmdError ResultRegs) (s : State) : Host.Outcome State Fault Refusal :=
  match c with
  | .ok r => .next (s.complete r)
  | .error e => .next (s.raise e)

/-- A Host write of `v` to CMD: dropped with OVERRUN while the Engine is busy, an issue otherwise
(60_exceptions.md R180). -/
def State.writeCmd (v : Word) (s : State) : State :=
  if s.engine.busy then { s with status := { s.status with overrun := true } } else s.issue v

/-- The value a register reads as (10_state.md R22 to R33). Reads have no side effects (20_memory.md R66). -/
def readReg (r : Reg) (s : State) : Word :=
  match r with
  | .id => idValue
  | .ctrl => (BitVec.ofBool s.ie).setWidth 64
  | .status => statusWord s
  | .cmd => 0
  | .opa => s.operands.opa
  | .opb => s.operands.opb
  | .opc => s.operands.opc
  | .kp => keyRead s.key.kp
  | .kq => keyRead s.key.kq
  | .ke => keyRead s.key.ke
  | .res0 => s.results.res0
  | .res1 => s.results.res1
  | .res2 => s.results.res2
  | .res3 => s.results.res3

/-- A legal write of `v` to a register (10_state.md R22 to R33). Writes to read-only registers and to reserved or
read-only fields have no effect (20_memory.md R64). -/
def writeReg (r : Reg) (v : Word) (s : State) : State :=
  match r with
  | .id => s
  | .ctrl => { s with ie := v.getLsbD 0 }
  | .status => s.writeStatus v
  | .cmd => s.writeCmd v
  | .opa => { s with operands := { s.operands with opa := v } }
  | .opb => { s with operands := { s.operands with opb := v } }
  | .opc => { s with operands := { s.operands with opc := v } }
  | .kp => { s with key := { s.key with kp := keyWrite v } }
  | .kq => { s with key := { s.key with kq := keyWrite v } }
  | .ke => { s with key := { s.key with ke := keyWrite v } }
  | .res0 => s
  | .res1 => s
  | .res2 => s
  | .res3 => s

/-- The offset of an address that reaches the block: `BASE_ADDR <= A < BASE_ADDR + 0x100` (20_memory.md R61). -/
def windowOffset (addr : Nat) : Option Nat :=
  if Config.baseAddr ≤ addr ∧ addr < Config.baseAddr + Config.windowSize then some (addr - Config.baseAddr) else none

/-- The register a legal access reaches; `none` is a bus error: a width other than 8 bytes, a misaligned offset,
or a reserved offset (20_memory.md R62, R63; 10_state.md R34). -/
def legalReg (off width : Nat) : Option Reg :=
  if width = Config.accessBytes ∧ off % 8 = 0 then Reg.all.find? (fun r => r.offset == off) else none

/-- One Host access: the response the block drives, and its state afterwards. A bus error changes nothing
(20_memory.md R65), nor does an access that does not reach the block (R61; log entry 5). -/
def busAccess (a : Access) (s : State) : Response × State :=
  match windowOffset a.addr with
  | none => (.idle, s)
  | some off =>
    match legalReg off a.width with
    | none => (.error, s)
    | some r =>
      match a.kind with
      | .read => (.data (readReg r s), s)
      | .write v => (.ack, writeReg r v s)

/-- `MemRead(BASE_ADDR + off(r), 8)` (00_scope.md R12). -/
def Access.ofRead (r : Reg) : Access := { addr := Config.baseAddr + r.offset, width := 8, kind := .read }

/-- `MemWrite(BASE_ADDR + off(r), 8, v)` (00_scope.md R12). -/
def Access.ofWrite (r : Reg) (v : Word) : Access :=
  { addr := Config.baseAddr + r.offset, width := 8, kind := .write v }

/-- A step that is one Host access: the response is recorded; a bus error is a fault of the Host program
(20_memory.md R65; log entry 6). -/
def accessStep (a : Access) (s : State) : Host.Outcome State Fault Refusal :=
  match busAccess a s with
  | (.error, _) => .fault (.busError a)
  | (resp, s') => .next { s' with response := resp }

/-- The reset input: the block's state takes its reset values, and a running command is abandoned
(70_reset_and_hazards.md R200). The Host agent and the turns to come are outside the block (log entry 8). -/
def State.resetBlock (s : State) : State :=
  { State.reset with host := s.host, schedule := s.schedule }

end Sys2Proof.Machine
end

