-- ==== Sys2Proof/Machine/CodeDecoder.lean ====
section
/-! DEFINITION. code_decoder_nibble_reversal_mux: CODEDEC (40_code_decoder.md R100 to R105). -/

namespace Sys2Proof.Machine

/-- `pair[g] = idx[2g] * 16 + idx[2g+1]`: the first character of a pair is the high nibble (40_code_decoder.md R101). -/
def pairUp : List (BitVec 4) → List Byte
  | hi :: lo :: rest => (hi ++ lo) :: pairUp rest
  | _ => []

/-- `CodeDecode(A, B)`: sixteen lookups, an error if any byte is no symbol (R102), pairs in reverse order so that
the last pair is byte 0 (R103) (40_code_decoder.md R100). -/
def codeDecode (a b : Word) : Except CmdError Word :=
  let entries := (bytesOf a ++ bytesOf b).map codeLut
  if entries.all CodeEntry.valid then .ok (packBytes (pairUp (entries.map CodeEntry.index)).reverse)
  else .error .invalidSymbol

/-- The pseudocode of CODEDEC on the latch (40_code_decoder.md R100). -/
def runCodedec (l : Latch) : Except CmdError ResultRegs :=
  match codeDecode l.operands.opa l.operands.opb with
  | .ok c => .ok { res0 := c, res1 := 0, res2 := 0, res3 := 0 }
  | .error e => .error e

/-- CODEDEC (40_code_decoder.md R100). -/
def execCodedec (s : State) : Host.Outcome State Fault Refusal := finish (runCodedec s.engine.latch) s

end Sys2Proof.Machine
end

