-- ==== Sys2Proof/Machine/ExtGcd.lean ====
section
/-! DEFINITION. extended_gcd_inverter: EXTGCD and MODINV (43_extgcd.md R130 to R135). -/

namespace Sys2Proof.Machine

/-- What `ExtGcd` returns: `(x, y, g)` (43_extgcd.md R130). -/
structure Bezout where
  x : Int
  y : Int
  g : Nat
  deriving DecidableEq, Repr

/-- The recursion of 43_extgcd.md R130, on fuel. -/
def extGcdLoop : Nat → Nat → Nat → Bezout
  | 0, a, _ => { x := 1, y := 0, g := a }
  | fuel + 1, a, b =>
    if b = 0 then { x := 1, y := 0, g := a }
    else
      let r := extGcdLoop fuel b (a % b)
      { x := r.y, y := r.x - ((a / b : Nat) : Int) * r.y, g := r.g }

/-- `ExtGcd(a, b)` (43_extgcd.md R130). The second argument falls at every level, so a fuel of `b` never runs out
(log entry 12). -/
def extGcd (a b : Nat) : Bezout := extGcdLoop b a b

/-- The pseudocode of EXTGCD on the latch (43_extgcd.md R131). -/
def runExtgcd (l : Latch) : Except CmdError ResultRegs :=
  let r := extGcd (u64 l.operands.opa) (u64 l.operands.opb)
  .ok { res0 := tc64 r.x, res1 := tc64 r.y, res2 := ofU64 r.g, res3 := 0 }

/-- EXTGCD (43_extgcd.md R131). -/
def execExtgcd (s : State) : Host.Outcome State Fault Refusal := finish (runExtgcd s.engine.latch) s

/-- `ModInv(a, m)` (43_extgcd.md R133, R135). -/
def modInv (a m : Nat) : Except CmdError Nat :=
  if m = 0 then .error .badModulus
  else
    let r := extGcd a m
    if r.g = 1 then .ok (residue r.x m) else .error .noModinv

/-- The pseudocode of MODINV on the latch (43_extgcd.md R133). -/
def runModinv (l : Latch) : Except CmdError ResultRegs :=
  match modInv (u64 l.operands.opa) (u64 l.operands.opb) with
  | .ok r => .ok { res0 := ofU64 r, res1 := 0, res2 := 0, res3 := 0 }
  | .error e => .error e

/-- MODINV (43_extgcd.md R133). -/
def execModinv (s : State) : Host.Outcome State Fault Refusal := finish (runModinv s.engine.latch) s

end Sys2Proof.Machine
end

