-- ==== Sys2Proof/Machine/Multiplier.lean ====
section
/-! DEFINITION. fixed_width_integer_multiplier: MUL and MULMOD (41_multiplier.md R110 to R112). -/

namespace Sys2Proof.Machine

/-- The exact product of two unsigned 64-bit values (41_multiplier.md R110). -/
def mul128 (a b : Nat) : Nat := a * b

/-- The pseudocode of MUL on the latch (41_multiplier.md R111). -/
def runMul (l : Latch) : Except CmdError ResultRegs :=
  let p := mul128 (u64 l.operands.opa) (u64 l.operands.opb)
  .ok { res0 := ofU64 (bits p 63 0), res1 := ofU64 (bits p 127 64), res2 := 0, res3 := 0 }

/-- MUL (41_multiplier.md R111). -/
def execMul (s : State) : Host.Outcome State Fault Refusal := finish (runMul s.engine.latch) s

/-- `mul128(a, b) mod m`, with BAD_MODULUS for m = 0 (41_multiplier.md R112). -/
def mulMod (a b m : Nat) : Except CmdError Nat :=
  if m = 0 then .error .badModulus else .ok (mul128 a b % m)

/-- The pseudocode of MULMOD on the latch (41_multiplier.md R112). -/
def runMulmod (l : Latch) : Except CmdError ResultRegs :=
  match mulMod (u64 l.operands.opa) (u64 l.operands.opb) (u64 l.operands.opc) with
  | .ok r => .ok { res0 := ofU64 r, res1 := 0, res2 := 0, res3 := 0 }
  | .error e => .error e

/-- MULMOD (41_multiplier.md R112). -/
def execMulmod (s : State) : Host.Outcome State Fault Refusal := finish (runMulmod s.engine.latch) s

end Sys2Proof.Machine
end

