-- ==== Sys2Proof/Machine/ModPow.lean ====
section
/-! DEFINITION. The exponentiation unit: MODPOW (42_modpow.md R120 to R124). -/

namespace Sys2Proof.Machine

/-- The loop of 42_modpow.md R120, on fuel: while `x` is not 0, multiply the accumulator by the base when x[0] = 1,
square the base, shift x right. -/
def modPowLoop (modulus : Nat) : Nat → Nat → Nat → Nat → Nat
  | 0, acc, _, _ => acc
  | fuel + 1, acc, b, x =>
    if x = 0 then acc
    else
      modPowLoop modulus fuel (if x % 2 = 1 then mul128 acc b % modulus else acc) (mul128 b b % modulus) (x >>> 1)

/-- `ModPow(base, exponent, modulus)` (42_modpow.md R120 to R123). The loop runs `bitlength(exponent)` times, which
is at most `exponent`, so that much fuel never runs out (R124; log entry 12). -/
def modPow (base exponent modulus : Nat) : Except CmdError Nat :=
  if modulus = 0 then .error .badModulus
  else if modulus = 1 then .ok 0
  else .ok (modPowLoop modulus exponent 1 (base % modulus) exponent)

/-- The pseudocode of MODPOW on the latch (42_modpow.md R120). -/
def runModpow (l : Latch) : Except CmdError ResultRegs :=
  match modPow (u64 l.operands.opa) (u64 l.operands.opb) (u64 l.operands.opc) with
  | .ok r => .ok { res0 := ofU64 r, res1 := 0, res2 := 0, res3 := 0 }
  | .error e => .error e

/-- MODPOW (42_modpow.md R120). -/
def execModpow (s : State) : Host.Outcome State Fault Refusal := finish (runModpow s.engine.latch) s

end Sys2Proof.Machine
end

