-- ==== Sys2Proof/Machine/Crt.lean ====
section
/-! DEFINITION. crt_decryptor_unit: KEYDERIVE and CRTDEC (44_crt.md R140 to R149). -/

namespace Sys2Proof.Machine

/-- The derived key values `(d, dp, dq, qinv)` (44_crt.md R141). They are never stored (10_state.md R20). -/
structure DerivedKey where
  d    : Nat
  dp   : Nat
  dq   : Nat
  qinv : Nat
  deriving DecidableEq, Repr

/-- `KeyDerive(p, q, e)`, its errors tried in the order written (44_crt.md R141, 60_exceptions.md R185). -/
def keyDerive (p q e : Nat) : Except CmdError DerivedKey :=
  if p < 2 ∨ q < 2 then .error .keyInvalid
  else
    match modInv e ((p - 1) * (q - 1)) with
    | .error err => .error err
    | .ok d =>
      match modInv q p with
      | .error err => .error err
      | .ok qinv => .ok { d := d, dp := d % (p - 1), dq := d % (q - 1), qinv := qinv }

/-- `KeyDerive` on the latched key registers (30_encoding.md R85). -/
def keyDeriveLatched (k : KeyRegs) : Except CmdError DerivedKey := keyDerive (u32k k.kp) (u32k k.kq) (u32k k.ke)

/-- The pseudocode of KEYDERIVE on the latch (44_crt.md R142). -/
def runKeyderive (l : Latch) : Except CmdError ResultRegs :=
  match keyDeriveLatched l.key with
  | .ok k => .ok { res0 := ofU64 k.d, res1 := ofU64 k.dp, res2 := ofU64 k.dq, res3 := ofU64 k.qinv }
  | .error e => .error e

/-- KEYDERIVE (44_crt.md R142). -/
def execKeyderive (s : State) : Host.Outcome State Fault Refusal := finish (runKeyderive s.engine.latch) s

/-- What `CrtDecrypt` returns: `(M, m1, m2, h)` (44_crt.md R143). -/
structure CrtResult where
  m  : Nat
  m1 : Nat
  m2 : Nat
  h  : Nat
  deriving DecidableEq, Repr

/-- Steps 3 and 4 of 44_crt.md R143: `h` is the non-negative residue in either branch (R147). -/
def recombine (p q qinv m1 m2 : Nat) : CrtResult :=
  let t : Int := if m1 < m2 then ((m1 : Int) - m2 + p) * qinv else ((m1 : Int) - m2) * qinv
  let h := residue t p
  { m := h * q + m2, m1 := m1, m2 := m2, h := h }

/-- `CrtDecrypt(V, p, q, e)`, V as the integer C (44_crt.md R143, 20_memory.md R67). -/
def crtDecrypt (c p q e : Nat) : Except CmdError CrtResult :=
  match keyDerive p q e with
  | .error err => .error err
  | .ok k =>
    match modPow c k.dp p with
    | .error err => .error err
    | .ok m1 =>
      match modPow c k.dq q with
      | .error err => .error err
      | .ok m2 => .ok (recombine p q k.qinv m1 m2)

/-- Step 1 of 44_crt.md R143: `C = (high << 32) | low`, from the two 32-bit halves of the vector. -/
def ciphertextOf (v : Word) : Nat := bits (u64 v) 63 32 <<< 32 ||| bits (u64 v) 31 0

/-- `CrtDecrypt` on a ciphertext vector and the latched key registers (30_encoding.md R85). -/
def crtDecryptLatched (v : Word) (k : KeyRegs) : Except CmdError CrtResult :=
  crtDecrypt (ciphertextOf v) (u32k k.kp) (u32k k.kq) (u32k k.ke)

/-- The pseudocode of CRTDEC on the latch (44_crt.md R143, R144). -/
def runCrtdec (l : Latch) : Except CmdError ResultRegs :=
  match crtDecryptLatched l.operands.opa l.key with
  | .ok r => .ok { res0 := ofU64 r.m, res1 := ofU64 r.m1, res2 := ofU64 r.m2, res3 := ofU64 r.h }
  | .error e => .error e

/-- CRTDEC (44_crt.md R143). -/
def execCrtdec (s : State) : Host.Outcome State Fault Refusal := finish (runCrtdec s.engine.latch) s

end Sys2Proof.Machine
end

