-- ==== Sys2Proof/Machine/PasswordEncoder.lean ====
section
/-! DEFINITION. password_encoder_lut: PWENC (45_password_encoder.md R160 to R163). -/

namespace Sys2Proof.Machine

/-- Field i of the low 32-bit word: `(v >> (21 - 3*i)) & 0x7` (45_password_encoder.md R160, R161). -/
def pwField (v : Word) (i : Nat) : BitVec 3 := ((v.setWidth 32) >>> (21 - 3 * i)).setWidth 3

/-- The eight password characters, `w_0` first (45_password_encoder.md R160). -/
def pwChars (v : Word) : List Byte :=
  [pwField v 0, pwField v 1, pwField v 2, pwField v 3, pwField v 4, pwField v 5, pwField v 6, pwField v 7].map pwLut

/-- `PwEncode(V)` (45_password_encoder.md R160). -/
def pwEncode (v : Word) : Word := packBytes (pwChars v)

/-- The pseudocode of PWENC on the latch (45_password_encoder.md R160). -/
def runPwenc (l : Latch) : Except CmdError ResultRegs :=
  .ok { res0 := pwEncode l.operands.opa, res1 := 0, res2 := 0, res3 := 0 }

/-- PWENC (45_password_encoder.md R160). -/
def execPwenc (s : State) : Host.Outcome State Fault Refusal := finish (runPwenc s.engine.latch) s

end Sys2Proof.Machine
end

