-- ==== Sys2Proof/Machine/DecodePassword.lean ====
section
/-! DEFINITION. The whole pipeline: DECODEPW (46_decode_password.md R170 to R172). -/

namespace Sys2Proof.Machine

/-- The chain CodeDecode, CrtDecrypt, PwEncode; the first error raised ends it (46_decode_password.md R170,
60_exceptions.md R185). -/
def decodePassword (a b : Word) (k : KeyRegs) : Except CmdError ResultRegs :=
  match codeDecode a b with
  | .error e => .error e
  | .ok c =>
    match crtDecryptLatched c k with
    | .error e => .error e
    | .ok r => .ok { res0 := pwEncode (ofU64 r.m), res1 := c, res2 := ofU64 r.m, res3 := 0 }

/-- The pseudocode of DECODEPW on the latch (46_decode_password.md R170). -/
def runDecodepw (l : Latch) : Except CmdError ResultRegs :=
  decodePassword l.operands.opa l.operands.opb l.key

/-- DECODEPW (46_decode_password.md R170). -/
def execDecodepw (s : State) : Host.Outcome State Fault Refusal := finish (runDecodepw s.engine.latch) s

end Sys2Proof.Machine
end

