-- ==== Sys2Proof/Machine/Dispatch.lean ====
section
/-! DEFINITION. The meaning of each command: the Engine's completion step on the latched operands
(60_exceptions.md R181, R182), one arm per constructor. -/

namespace Sys2Proof.Machine

/-- Run a decoded command to its completion. -/
def exec (i : Instr) (s : State) : Host.Outcome State Fault Refusal :=
  match i with
  | .codedec => Sys2Proof.Machine.execCodedec s
  | .mul => Sys2Proof.Machine.execMul s
  | .mulmod => Sys2Proof.Machine.execMulmod s
  | .modpow => Sys2Proof.Machine.execModpow s
  | .extgcd => Sys2Proof.Machine.execExtgcd s
  | .modinv => Sys2Proof.Machine.execModinv s
  | .keyderive => Sys2Proof.Machine.execKeyderive s
  | .crtdec => Sys2Proof.Machine.execCrtdec s
  | .pwenc => Sys2Proof.Machine.execPwenc s
  | .decodepw => Sys2Proof.Machine.execDecodepw s

end Sys2Proof.Machine
end

