-- ==== Sys2Proof/WellFormed.lean ====
section
/-! DEFINITION. Well-formedness of command words, instructions and Host programs (30_encoding.md R80 to R83, R88). -/

namespace Sys2Proof

/-- The RSVD field, bits [63:8] of a command word, is zero (30_encoding.md R80). -/
def CommandWord.rsvdZero (w : Word) : Bool := w.extractLsb' 8 56 == 0#56

/-- The OPCODE field, bits [7:0], is one of 0x01 to 0x0A (30_encoding.md R82, R83). -/
def CommandWord.opcodeAssigned (w : Word) : Bool :=
  0x01#8 ≤ w.extractLsb' 0 8 && w.extractLsb' 0 8 ≤ 0x0A#8

/-- A command word is legal (30_encoding.md R81). -/
def CommandWord.wf (w : Word) : Bool := CommandWord.rsvdZero w && CommandWord.opcodeAssigned w

/-- Every command is well formed: the format has no register, immediate or mode field, so there is nothing
in an instruction to check (30_encoding.md R80, R87). -/
def Instr.wf : Instr → Bool
  | .codedec => true
  | .mul => true
  | .mulmod => true
  | .modpow => true
  | .extgcd => true
  | .modinv => true
  | .keyderive => true
  | .crtdec => true
  | .pwenc => true
  | .decodepw => true

/-- A Host instruction is well formed in a program of `n` instructions: a branch label names one of them
(30_encoding.md R88). -/
def Machine.HostInstr.wf (n : Nat) : Machine.HostInstr → Bool
  | .wrImm _ _ => true
  | .wrTemp _ _ => true
  | .rd _ _ => true
  | .bset _ _ label => decide (label < n)
  | .halt => true

/-- A Host program is well formed: every label names an instruction of it (30_encoding.md R88). -/
def HostProgram.wf (p : List Machine.HostInstr) : Bool := p.all (Machine.HostInstr.wf p.length)

end Sys2Proof
end

