-- ==== Sys2Proof/Decode.lean ====
section
/-! DEFINITION. The command decoder, total on all 2^64 words and rejecting by name, and the encoder
(30_encoding.md R80 to R83, R87). -/

namespace Sys2Proof

/-- Why a command word is illegal (30_encoding.md R81, R83). Either way the command completes with
ILLEGAL_COMMAND. -/
inductive DecodeError where
  /-- Bits [63:8] are not zero, whatever the opcode. -/
  | rsvdNotZero
  /-- The opcode is 0x00 or one of 0x0B to 0xFF. -/
  | opcodeReserved
  deriving DecidableEq, Repr

/-- One row of the opcode table: a word `w` is the row's when `w &&& mask = pattern`. -/
structure OpcodeRow where
  pattern : Word
  mask    : Word
  instr   : Instr
  deriving DecidableEq, Repr

/-- The opcode map (30_encoding.md R82, spec/opcode_table.json). -/
def opcodeTable : List OpcodeRow :=
  [ ⟨0x0000000000000001, 0xFFFFFFFFFFFFFFFF, .codedec⟩,
    ⟨0x0000000000000002, 0xFFFFFFFFFFFFFFFF, .mul⟩,
    ⟨0x0000000000000003, 0xFFFFFFFFFFFFFFFF, .mulmod⟩,
    ⟨0x0000000000000004, 0xFFFFFFFFFFFFFFFF, .modpow⟩,
    ⟨0x0000000000000005, 0xFFFFFFFFFFFFFFFF, .extgcd⟩,
    ⟨0x0000000000000006, 0xFFFFFFFFFFFFFFFF, .modinv⟩,
    ⟨0x0000000000000007, 0xFFFFFFFFFFFFFFFF, .keyderive⟩,
    ⟨0x0000000000000008, 0xFFFFFFFFFFFFFFFF, .crtdec⟩,
    ⟨0x0000000000000009, 0xFFFFFFFFFFFFFFFF, .pwenc⟩,
    ⟨0x000000000000000A, 0xFFFFFFFFFFFFFFFF, .decodepw⟩ ]

/-- A word matches a row: the whole word is compared (30_encoding.md R81). -/
def OpcodeRow.hits (w : Word) (r : OpcodeRow) : Bool := (w &&& r.mask) == r.pattern

/-- Decode a command word (30_encoding.md R81). -/
def decode (w : Word) : Except DecodeError Instr :=
  match opcodeTable.find? (OpcodeRow.hits w) with
  | some r => .ok r.instr
  | none => if CommandWord.rsvdZero w then .error .opcodeReserved else .error .rsvdNotZero

/-- The OPCODE byte of a command (30_encoding.md R82). -/
def opcode : Instr → Byte
  | .codedec => 0x01
  | .mul => 0x02
  | .mulmod => 0x03
  | .modpow => 0x04
  | .extgcd => 0x05
  | .modinv => 0x06
  | .keyderive => 0x07
  | .crtdec => 0x08
  | .pwenc => 0x09
  | .decodepw => 0x0A

/-- Encode a command: OPCODE in [7:0], RSVD zero (30_encoding.md R80). -/
def encode (i : Instr) : Word := 0#56 ++ opcode i

/-- The instruction the decoder reads from a command whose bits, numbered as the opcode table numbers them, are
`w`. A command is one 64-bit word (30_encoding.md R87), so bits above `nbits` are 0 and no bit may lie above 63. -/
def decodeTableWord (nbits w : Nat) : Option Instr :=
  if w % 2 ^ nbits < 2 ^ 64 then
    match decode (BitVec.ofNat 64 (w % 2 ^ nbits)) with
    | .ok i => some i
    | .error _ => none
  else none

end Sys2Proof
end

