-- ==== Sys2Proof/Machine/HostNotation.lean ====
section
/-! DEFINITION. The Host notation of 30_encoding.md R88 to R90: base instructions, pseudo-instructions and the
transactions they make. It is not part of the hardware (92_eei_decisions.md D29). -/

namespace Sys2Proof.Machine

/-- The instruction the Host agent is at; `none` past the end of its program (log entry 7). -/
def hostInstr (h : HostAgent) : Option HostInstr := h.program[h.pos]?

/-- The Host agent still has something to do: it is at an instruction other than `halt`. -/
def hostRunning (h : HostAgent) : Bool :=
  match hostInstr h with
  | none => false
  | some .halt => false
  | some _ => true

/-- The bus transaction an instruction makes, if any (30_encoding.md R88, R90). -/
def hostTransaction (h : HostAgent) (i : HostInstr) : Option Access :=
  match i with
  | .wrImm r imm => some (Access.ofWrite r imm)
  | .wrTemp r t => some (Access.ofWrite r h.temps[t])
  | .rd r _ => some (Access.ofRead r)
  | .bset _ _ _ => none
  | .halt => none

/-- The Host agent after an instruction, given the read data its transaction returned (30_encoding.md R88). -/
def hostAdvance (h : HostAgent) (i : HostInstr) (readData : Word) : HostAgent :=
  match i with
  | .wrImm _ _ => { h with pos := h.pos + 1 }
  | .wrTemp _ _ => { h with pos := h.pos + 1 }
  | .rd _ t => { h with temps := h.temps.set t readData, pos := h.pos + 1 }
  | .bset t mask label => { h with pos := if h.temps[t] &&& mask ≠ 0 then label else h.pos + 1 }
  | .halt => h

/-- The Host agent executes one instruction (30_encoding.md R88): its transaction, if any, is one access step;
then the agent advances. At `halt`, or past the end of its program, nothing happens. -/
def hostStep (s : State) : Host.Outcome State Fault Refusal :=
  match hostInstr s.host with
  | none => .next s
  | some i =>
    match hostTransaction s.host i with
    | none => .next { s with host := hostAdvance s.host i 0 }
    | some a =>
      match accessStep a s with
      | .next t => .next { t with host := hostAdvance t.host i t.response.readData }
      | .fault r => .fault r
      | .refused r => .refused r

/-- `issue MNEMONIC` (30_encoding.md R89). -/
def pseudoIssue (i : Instr) : List HostInstr := [.wrImm .cmd (encode i)]

/-- `wait`, placed at index `idx` of its program: poll STATUS into t7 until BUSY = 0 (30_encoding.md R89). -/
def pseudoWait (idx : Nat) : List HostInstr := [.rd .status 7, .bset 7 0x1 idx]

/-- `run MNEMONIC`, placed at index `idx` of its program (30_encoding.md R89). -/
def pseudoRun (idx : Nat) (i : Instr) : List HostInstr := pseudoIssue i ++ pseudoWait (idx + 1)

/-- `ack`: clear DONE, ERR with ERRCODE, and OVERRUN (30_encoding.md R89). -/
def pseudoAck : List HostInstr := [.wrImm .status 0xE]

/-- `li REG, "s"` (30_encoding.md R89). -/
def pseudoLi (r : Reg) (cs : List Char) : List HostInstr := [.wrImm r (packChars cs)]

end Sys2Proof.Machine
end

