-- ==== Sys2Proof/Machine/Turns.lean ====
section
/-! DEFINITION. One turn of each agent, and which turn comes next (00_scope.md R17, 20_memory.md R71,
60_exceptions.md R181). -/

namespace Sys2Proof.Machine

/-- The Engine's step, enabled while `ENG.busy = 1`: decode ENG.cmd and run the command, or complete with
ILLEGAL_COMMAND (60_exceptions.md R181, R182, 30_encoding.md R81). Idle, it has no step and nothing happens. -/
def engineStep (s : State) : Host.Outcome State Fault Refusal :=
  if s.engine.busy then
    match decode s.engine.cmd with
    | .ok i => exec i s
    | .error _ => .next (s.raise .illegalCommand)
  else .next s

/-- One turn. -/
def runTurn (t : Turn) (s : State) : Host.Outcome State Fault Refusal :=
  match t with
  | .host => hostStep s
  | .access a => accessStep a s
  | .engine => engineStep s
  | .reset => .next s.resetBlock

/-- The next turn: the head of the schedule. With an empty schedule a busy Engine completes (weak fairness,
60_exceptions.md R181), an idle one leaves the turn to the Host agent, and with nothing left to run the block is
idle (R195; log entry 2). -/
def nextTurn (s : State) : Option Turn :=
  match s.schedule with
  | t :: _ => some t
  | [] => if s.engine.busy then some .engine else if hostRunning s.host then some .host else none

/-- The state with its next turn taken off the schedule. -/
def State.popTurn (s : State) : State := { s with schedule := s.schedule.tail }

/-- Take the next turn; with none, nothing happens (60_exceptions.md R195). -/
def takeTurn (s : State) : Host.Outcome State Fault Refusal :=
  match nextTurn s with
  | none => .next s
  | some t => runTurn t s.popTurn

/-- The state right after the issue of command word `w`, with the Engine's completion as its next turn
(60_exceptions.md R180; log entry 3). -/
def State.issuedNext (w : Word) (s : State) : State :=
  { s.issue w with schedule := .engine :: s.schedule }

end Sys2Proof.Machine
end

