-- ==== Sys2Proof/Machine/Step.lean ====
section
/-! DEFINITION. The machine's step (00_scope.md R17), and the state in which the next step runs a given command. -/

namespace Sys2Proof.Machine

/-- One step of the machine. -/
def step : State → Host.Outcome State Fault Refusal := takeTurn

/-- `s` with the command whose bits are `w` issued, its completion the very next step: the state a Host's write
of `w` to CMD leaves, with the Engine's turn next (60_exceptions.md R180; log entry 3). -/
def State.withFetchWord (s : State) (nbits w : Nat) : State :=
  s.issuedNext (BitVec.ofNat 64 (w % 2 ^ nbits))

end Sys2Proof.Machine
end

