-- ==== Sys2Proof/Safety.lean ====
section
/-! DEFINITION. The terms claims are stated in: the state invariant, the two ways a command ends, valid codes,
legal accesses, and what an access may change. -/

namespace Sys2Proof.Machine

/-- What holds in every state a run can reach.
- `errcode_known`: ERRCODE is one of 0x00 to 0x05 (60_exceptions.md R183).
- `err_iff`: ERRCODE is non-zero exactly while ERR = 1 (10_state.md R29).
- `busy_clear`: while a command runs, DONE and ERR are 0, because issue cleared them (60_exceptions.md R180).
- `err_results`: an error leaves every result 0, and results change only at a completion (60_exceptions.md R182,
  10_state.md R23).
- `lastop_cmd`: LASTOP is the low byte of the last word accepted at issue (10_state.md R31). -/
structure State.Inv (s : State) : Prop where
  errcode_known : s.status.errcode.toNat ≤ 5
  err_iff : s.status.err = true ↔ s.status.errcode ≠ 0
  busy_clear : s.engine.busy = true → s.status.done = false ∧ s.status.err = false
  err_results : s.status.err = true → s.results = { res0 := 0, res1 := 0, res2 := 0, res3 := 0 }
  lastop_cmd : s.status.lastop = s.engine.cmd.setWidth 8

/-- Command `i` in state `s` ends with a successful completion whose results are `r`: RES0 to RES3, DONE and
`ENG.busy` are written and nothing else changes (60_exceptions.md R181). -/
def Succeeds (i : Instr) (s : State) (r : ResultRegs) : Prop :=
  exec i s = .next
    { s with
      results := r
      status := { s.status with done := true }
      engine := { s.engine with busy := false } }

/-- Command `i` in state `s` ends with an error completion of code `e`: RES0 to RES3 zero, ERR, ERRCODE, DONE and
`ENG.busy` are written and nothing else changes (60_exceptions.md R182). -/
def FailsWith (i : Instr) (s : State) (e : CmdError) : Prop :=
  exec i s = .next
    { s with
      results := { res0 := 0, res1 := 0, res2 := 0, res3 := 0 }
      status := { s.status with done := true, err := true, errcode := e.code }
      engine := { s.engine with busy := false } }

/-- Every one of the sixteen bytes of two CHARS8 registers is a symbol of CODE_ALPHABET (40_code_decoder.md R102). -/
def ValidCode (a b : Word) : Prop := ∀ c ∈ bytesOf a ++ bytesOf b, c ∈ codeAlphabet

/-- `L.OPA` of the running command, as an integer (30_encoding.md R85). -/
abbrev State.a (s : State) : Nat := s.engine.latch.operands.opa.toNat

/-- `L.OPB` of the running command, as an integer (30_encoding.md R85). -/
abbrev State.b (s : State) : Nat := s.engine.latch.operands.opb.toNat

/-- `L.OPC` of the running command, as an integer (30_encoding.md R85). -/
abbrev State.c (s : State) : Nat := s.engine.latch.operands.opc.toNat

/-- p of the running command, from `L.KP` (30_encoding.md R85). -/
abbrev State.p (s : State) : Nat := s.engine.latch.key.kp.toNat

/-- q of the running command, from `L.KQ` (30_encoding.md R85). -/
abbrev State.q (s : State) : Nat := s.engine.latch.key.kq.toNat

/-- e of the running command, from `L.KE` (30_encoding.md R85). -/
abbrev State.e (s : State) : Nat := s.engine.latch.key.ke.toNat

/-- The code read left to right as sixteen hexadecimal digits, most significant first, with CODE_ALPHABET in place
of 0 to F (40_code_decoder.md R104). -/
def codeValue (a b : Word) : Nat :=
  ((bytesOf a ++ bytesOf b).map (fun c => codeAlphabet.idxOf c)).foldl (fun acc d => 16 * acc + d) 0

/-- The errors each command can end with, the rows of the table of 60_exceptions.md R184. -/
def possibleErrors : Instr → List CmdError
  | .codedec => [.invalidSymbol]
  | .mul => []
  | .mulmod => [.badModulus]
  | .modpow => [.badModulus]
  | .extgcd => []
  | .modinv => [.badModulus, .noModinv]
  | .keyderive => [.noModinv, .keyInvalid]
  | .crtdec => [.noModinv, .keyInvalid]
  | .pwenc => []
  | .decodepw => [.noModinv, .invalidSymbol, .keyInvalid]

/-- A key KeyDerive accepts: p and q at least 2, `gcd(e, phi) = 1` and `gcd(q, p) = 1` (44_crt.md R141, R142). -/
def KeyDerives (p q e : Nat) : Prop :=
  2 ≤ p ∧ 2 ≤ q ∧ Nat.gcd e ((p - 1) * (q - 1)) = 1 ∧ Nat.gcd q p = 1

/-- `M` is the CRT decryption of `c` under the key (p, q, e): with d the inverse of e modulo phi, M is below p*q and has
the residues `c^(d mod (p-1)) mod p` and `c^(d mod (q-1)) mod q` (44_crt.md R141, R143, R145). -/
def CrtPlaintext (c p q e m : Nat) : Prop :=
  m < p * q ∧
    ∃ d, d < (p - 1) * (q - 1) ∧ e * d % ((p - 1) * (q - 1)) = 1 ∧
      m % p = c ^ (d % (p - 1)) % p ∧ m % q = c ^ (d % (q - 1)) % q

/-- An access reaches the block (20_memory.md R61). -/
def Access.InWindow (a : Access) : Prop :=
  Config.baseAddr ≤ a.addr ∧ a.addr < Config.baseAddr + 0x100

/-- The offset of an access (20_memory.md R61). -/
def Access.off (a : Access) : Nat := a.addr - Config.baseAddr

/-- The block's own state is the same in both: every register and the Engine (10_state.md R20). -/
def SameBlock (s t : State) : Prop :=
  t.ie = s.ie ∧ t.status = s.status ∧ t.operands = s.operands ∧ t.key = s.key ∧ t.results = s.results ∧
    t.engine = s.engine

/-- A run is safe at a state when its next step does not stop: the only stop is a bus error (20_memory.md R65). -/
def SafeAt (s : State) : Prop := ∃ t, step s = .next t

end Sys2Proof.Machine
end

