-- ==== Sys2Proof/Certificates/Slice0/Obligations.lean ====
section
/-! DEFINITION. The statements for the provers. Each docstring names the rule it formalises, or the log entry where
the model's own choice is stated. -/

open Sys2Proof Sys2Proof.Machine

/-! ### Reset and the invariant -/

/-- 10_state.md R44: after reset every register holds the reset value of R34's table, the Engine is idle, ENG.cmd and
every latched copy are 0, and irq is 0. -/
def Obligations.ResetLeavesTheTabledValues : Prop :=
  Reg.all.map (fun r => readReg r State.reset) =
      [0x4D45584500070001, 0, 0, 0, 0, 0, 0, 0x00000000A69CB353, 0x00000000D34B6937, 0x0000000000000029, 0, 0, 0, 0] ∧
    State.reset.engine =
      { busy := false
        cmd := 0
        latch := { operands := { opa := 0, opb := 0, opc := 0 }, key := { kp := 0, kq := 0, ke := 0 } } } ∧
    State.reset.irq = false

/-- The invariant of Safety.lean holds at reset (10_state.md R44). -/
def Obligations.ResetMeetsTheInvariant : Prop := State.reset.Inv

/-- Every step keeps the invariant: ERRCODE is a defined code and non-zero exactly while ERR = 1, DONE and ERR are 0
while a command runs, an error leaves every result 0, and LASTOP is the low byte of the last accepted word
(10_state.md R23, R29, R31; 60_exceptions.md R180 to R183). -/
def Obligations.StepKeepsTheInvariant : Prop :=
  ∀ s t : State, s.Inv → step s = .next t → t.Inv

/-- 70_reset_and_hazards.md R200: a reset brings every register and the Engine to their reset values from any state,
a running command included, with irq 0. That the Host agent and the schedule are left alone is the model's
choice (log entry 8). -/
def Obligations.ResetAbandonsARunningCommand : Prop :=
  ∀ s : State, ∃ t, runTurn .reset s = .next t ∧ SameBlock State.reset t ∧ t.irq = false ∧
    t.host = s.host ∧ t.schedule = s.schedule

/-! ### The bus -/

/-- 20_memory.md R62, R63 (with the effects of R65): an access in the window of another width than 8 bytes, at an
offset that is not a multiple of 8, or at an offset from 0x70 to 0xF8, is a bus error. It changes no state, its read
data is 0, and the step that makes it is a fault. -/
def Obligations.IllegalAccessIsABusError : Prop :=
  ∀ (s : State) (a : Access) (rest : List Turn), a.InWindow →
    (a.width ≠ 8 ∨ a.off % 8 ≠ 0 ∨ (0x70 ≤ a.off ∧ a.off ≤ 0xF8)) →
    busAccess a s = (.error, s) ∧ Response.error.readData = 0 ∧
      step { s with schedule := .access a :: rest } = .fault (.busError a)

/-- 20_memory.md R61, 10_state.md R34: a legal read at BASE_ADDR + off(r) answers the register's value, and changes
nothing but the recorded response; a legal write performs the register's write (20_memory.md R66). -/
def Obligations.LegalAccessReachesItsRegister : Prop :=
  ∀ (s : State) (rest : List Turn) (r : Reg),
    step { s with schedule := .access { addr := Config.baseAddr + r.offset, width := 8, kind := .read } :: rest } =
        .next { s with schedule := rest, response := .data (readReg r s) } ∧
      ∀ v, ∃ t,
        step { s with schedule := .access { addr := Config.baseAddr + r.offset, width := 8, kind := .write v } :: rest } =
            .next t ∧
          SameBlock (writeReg r v s) t ∧ t.response = .ack ∧ t.host = s.host ∧ t.schedule = rest

/-- 20_memory.md R61: an access whose address is not in the window does not reach the block. That the step goes on
with the response idle is the model's choice (log entry 5). -/
def Obligations.AccessOutsideTheWindowChangesNothing : Prop :=
  ∀ (s : State) (a : Access) (rest : List Turn), ¬ a.InWindow →
    ∃ t, step { s with schedule := .access a :: rest } = .next t ∧ SameBlock s t ∧ t.host = s.host ∧
      t.schedule = rest

/-- A step stops only on a bus error of an access in the window (20_memory.md R65), and is never refused; the Host
agent's own accesses never stop. -/
def Obligations.StepStopsOnlyOnABusError : Prop :=
  ∀ s : State, (∃ t, step s = .next t) ∨
    ∃ a, nextTurn s = some (.access a) ∧ a.InWindow ∧
      (a.width ≠ 8 ∨ a.off % 8 ≠ 0 ∨ 0x70 ≤ a.off) ∧ step s = .fault (.busError a)

/-- 20_memory.md R64: writes to ID and RES0 to RES3 have no effect, the reserved and read-only bits of a written
value have no effect, no such write is an error, a read of CMD is 0, and reserved fields read 0. -/
def Obligations.ReadOnlyAndReservedWritesAreIgnored : Prop :=
  ∀ (s : State) (v : Word),
    (∀ r ∈ [Reg.id, .res0, .res1, .res2, .res3], writeReg r v s = s) ∧
    writeReg .ctrl v s = writeReg .ctrl (v &&& 0x1) s ∧
    writeReg .status v s = writeReg .status (v &&& 0xE) s ∧
    (∀ r ∈ [Reg.kp, .kq, .ke], writeReg r v s = writeReg r (v &&& 0xFFFFFFFF) s) ∧
    (∀ r : Reg, (busAccess { addr := Config.baseAddr + r.offset, width := 8, kind := .write v } s).1 = .ack) ∧
    readReg .cmd s = 0 ∧
    readReg .ctrl s &&& 0xFFFFFFFFFFFFFFFE = 0 ∧
    readReg .status s &&& 0xFFFFFFFFFF0000F0 = 0 ∧
    (∀ r ∈ [Reg.kp, .kq, .ke], readReg r s &&& 0xFFFFFFFF00000000 = 0)

/-- 10_state.md R22, R25, R33: CTRL keeps bit 0, OPA to OPC all 64 bits, KP to KE bits [31:0] of what is written,
whether or not the Engine is busy; every other register reads as before and the Engine is unchanged. -/
def Obligations.RegisterWritesReadBack : Prop :=
  ∀ (s : State) (v : Word),
    readReg .ctrl (writeReg .ctrl v s) = v &&& 0x1 ∧
    (∀ r ∈ [Reg.opa, .opb, .opc], readReg r (writeReg r v s) = v) ∧
    (∀ r ∈ [Reg.kp, .kq, .ke], readReg r (writeReg r v s) = v &&& 0xFFFFFFFF) ∧
    (∀ r ∈ [Reg.ctrl, .opa, .opb, .opc, .kp, .kq, .ke],
      (∀ r', r' ≠ r → readReg r' (writeReg r v s) = readReg r' s) ∧ (writeReg r v s).engine = s.engine)

/-- 20_memory.md R66: repeating a write to any register but CMD changes nothing more, and a repeated CMD write to an
idle Engine with OVERRUN clear is not the same as one. -/
def Obligations.WritesAreIdempotentExceptCmd : Prop :=
  (∀ (s : State) (v : Word) (r : Reg), r ≠ .cmd → writeReg r v (writeReg r v s) = writeReg r v s) ∧
    ∀ (s : State) (v : Word), s.engine.busy = false → s.status.overrun = false →
      writeReg .cmd v (writeReg .cmd v s) ≠ writeReg .cmd v s

/-! ### STATUS and the interrupt -/

/-- 10_state.md R26: where each field of STATUS reads. -/
def Obligations.StatusReadsItsFields : Prop :=
  ∀ s : State,
    (readReg .status s).getLsbD 0 = s.engine.busy ∧
    (readReg .status s).getLsbD 1 = s.status.done ∧
    (readReg .status s).getLsbD 2 = s.status.err ∧
    (readReg .status s).getLsbD 3 = s.status.overrun ∧
    (readReg .status s).extractLsb' 8 8 = s.status.errcode ∧
    (readReg .status s).extractLsb' 16 8 = s.status.lastop

/-- 10_state.md R28: issue clears DONE, every completion sets it, a STATUS write with v[1] = 1 clears it and with
v[1] = 0 leaves it. -/
def Obligations.DoneFollowsIssueCompletionAndClear : Prop :=
  (∀ (s : State) (v : Word), s.engine.busy = false → (writeReg .cmd v s).status.done = false) ∧
  (∀ s : State, s.engine.busy = true → ∃ t, engineStep s = .next t ∧ t.status.done = true) ∧
  (∀ (s : State) (v : Word), v.getLsbD 1 = true → (writeReg .status v s).status.done = false) ∧
  (∀ (s : State) (v : Word), v.getLsbD 1 = false → (writeReg .status v s).status.done = s.status.done)

/-- 10_state.md R29: issue clears ERR and ERRCODE. A busy Engine's completion from a state of the invariant is an error
completion, which sets ERR and ERRCODE to its error's code, or a successful completion, which leaves both at 0; and an
error completion sets both so from any state. A STATUS write with v[2] = 1 clears both and with v[2] = 0 leaves both.
ERRCODE is 0 at reset, and no step from a state of the invariant makes it non-zero while ERR = 0. -/
def Obligations.ErrFollowsIssueCompletionAndClear : Prop :=
  (∀ (s : State) (v : Word), s.engine.busy = false →
    (writeReg .cmd v s).status.err = false ∧ (writeReg .cmd v s).status.errcode = 0) ∧
  (∀ s : State, s.Inv → s.engine.busy = true → ∃ t, engineStep s = .next t ∧
    ((∃ e : CmdError, t = s.raise e ∧ t.status.err = true ∧ t.status.errcode = e.code) ∨
      (∃ r, t = s.complete r ∧ t.status.err = false ∧ t.status.errcode = 0))) ∧
  (∀ (s : State) (e : CmdError), (s.raise e).status.err = true ∧ (s.raise e).status.errcode = e.code) ∧
  (∀ (s : State) (v : Word), v.getLsbD 2 = true →
    (writeReg .status v s).status.err = false ∧ (writeReg .status v s).status.errcode = 0) ∧
  (∀ (s : State) (v : Word), v.getLsbD 2 = false →
    (writeReg .status v s).status.err = s.status.err ∧ (writeReg .status v s).status.errcode = s.status.errcode) ∧
  State.reset.status.errcode = 0 ∧
  (∀ s t : State, s.Inv → step s = .next t → t.status.err = false → t.status.errcode = 0)

/-- 10_state.md R30: a CMD write while busy sets OVERRUN; nothing else sets it; issue and completion leave it; a
STATUS write with v[3] = 1 clears it. -/
def Obligations.OverrunIsSetOnlyByADroppedCommand : Prop :=
  (∀ (s : State) (v : Word), s.engine.busy = true → (writeReg .cmd v s).status.overrun = true) ∧
  (∀ (s : State) (v : Word), s.engine.busy = false → (writeReg .cmd v s).status.overrun = s.status.overrun) ∧
  (∀ s : State, s.engine.busy = true → ∃ t, engineStep s = .next t ∧ t.status.overrun = s.status.overrun) ∧
  (∀ (s : State) (v : Word), v.getLsbD 3 = true → (writeReg .status v s).status.overrun = false) ∧
  (∀ s t : State, step s = .next t → s.status.overrun = false → t.status.overrun = true →
    s.engine.busy = true ∧ t.response = .ack ∧
      ((∃ v, nextTurn s = some (.access (Access.ofWrite .cmd v))) ∨
        (nextTurn s = some .host ∧
          ((∃ v, hostInstr s.host = some (.wrImm .cmd v)) ∨ (∃ n, hostInstr s.host = some (.wrTemp .cmd n))))))

/-- 10_state.md R31: issue records bits [7:0] of the command word in LASTOP; a dropped CMD write and every other Host
write leave it. -/
def Obligations.LastopRecordsTheIssuedByte : Prop :=
  ∀ (s : State) (v : Word),
    (s.engine.busy = false → (writeReg .cmd v s).status.lastop = v.extractLsb' 0 8) ∧
    (s.engine.busy = true → (writeReg .cmd v s).status.lastop = s.status.lastop) ∧
    (∀ r, r ≠ .cmd → (writeReg r v s).status.lastop = s.status.lastop)

/-- 60_exceptions.md R186: a completion, successful or not, raises irq exactly when CTRL.IE is set; writing 1 to DONE,
a new issue, or clearing IE lowers it; an overrun and a bus error do not change it. -/
def Obligations.InterruptFollowsCompletionAndEnable : Prop :=
  (∀ s : State, s.engine.busy = true → ∃ t, engineStep s = .next t ∧ t.irq = s.ie) ∧
  (∀ (s : State) (v : Word), (writeReg .status v s).irq = (s.irq && !v.getLsbD 1)) ∧
  (∀ (s : State) (v : Word), s.engine.busy = false → (writeReg .cmd v s).irq = false) ∧
  (∀ (s : State) (v : Word), (writeReg .ctrl v s).irq = (v.getLsbD 0 && s.status.done) ∧
    (writeReg .ctrl v s).status.done = s.status.done) ∧
  (∀ (s : State) (v : Word), s.engine.busy = true → (writeReg .cmd v s).irq = s.irq) ∧
  (∀ (s : State) (a : Access), (busAccess a s).1 = .error → (busAccess a s).2.irq = s.irq)

/-! ### Issue, completion, and who may change what -/

/-- 60_exceptions.md R180: a write of v to BASE_ADDR + 0x18 while busy sets OVERRUN and changes nothing else; while
idle it latches the word, the operands and the key, clears DONE, ERR and ERRCODE, records LASTOP and makes the Engine
busy, and changes nothing else. -/
def Obligations.CmdWriteIssuesOrOverruns : Prop :=
  ∀ (s : State) (v : Word) (rest : List Turn),
    (s.engine.busy = true →
      step { s with schedule := .access { addr := Config.baseAddr + 0x18, width := 8, kind := .write v } :: rest } =
        .next { s with status := { s.status with overrun := true }, schedule := rest, response := .ack }) ∧
    (s.engine.busy = false →
      step { s with schedule := .access { addr := Config.baseAddr + 0x18, width := 8, kind := .write v } :: rest } =
        .next
          { s with
            engine := { busy := true, cmd := v, latch := { operands := s.operands, key := s.key } }
            status :=
              { done := false
                err := false
                overrun := s.status.overrun
                errcode := 0
                lastop := v.extractLsb' 0 8 }
            schedule := rest
            response := .ack })

/-- 60_exceptions.md R181: when the Engine's turn comes and it is busy with a legal word, the step is that command's
meaning, on the state with the turn taken off the schedule; also when the schedule is empty (log entry 2). -/
def Obligations.StepRunsTheDecodedCommand : Prop :=
  ∀ (s : State) (i : Instr), s.engine.busy = true → decode s.engine.cmd = .ok i →
    (∀ rest, s.schedule = .engine :: rest → step s = exec i { s with schedule := rest }) ∧
    (s.schedule = [] → step s = exec i s)

/-- The next step after `withFetchWord` runs exactly that command, on the state its issue leaves
(60_exceptions.md R180, R181; log entry 3). -/
def Obligations.FetchWordRunsNext : Prop :=
  ∀ (s : State) (i : Instr),
    step (s.withFetchWord 64 (encode i).toNat) = exec i (s.issue (encode i))

/-- 30_encoding.md R83: opcode 0x00, opcodes 0x0B to 0xFF, and every word with bits [63:8] not zero complete with
ILLEGAL_COMMAND: results zero, ERR, ERRCODE 0x01, DONE, idle, and nothing else changed (60_exceptions.md R182). -/
def Obligations.IllegalWordCompletesWithIllegalCommand : Prop :=
  ∀ s : State, s.engine.busy = true →
    (s.engine.cmd.extractLsb' 0 8 = 0x00#8 ∨ 0x0B#8 ≤ s.engine.cmd.extractLsb' 0 8 ∨
      s.engine.cmd.extractLsb' 8 56 ≠ 0#56) →
    engineStep s = .next
      { s with
        results := { res0 := 0, res1 := 0, res2 := 0, res3 := 0 }
        status := { s.status with done := true, err := true, errcode := 0x01 }
        engine := { s.engine with busy := false } }

/-- 60_exceptions.md R183: the error codes. -/
def Obligations.ErrorCodesAreAsTabled : Prop :=
  CmdError.code .illegalCommand = 0x01 ∧ CmdError.code .badModulus = 0x02 ∧ CmdError.code .noModinv = 0x03 ∧
    CmdError.code .invalidSymbol = 0x04 ∧ CmdError.code .keyInvalid = 0x05

/-- 60_exceptions.md R184: every command ends in a successful completion, or in an error completion with one of the
errors of its row of the table. -/
def Obligations.CommandsEndOnlyWithTheirListedErrors : Prop :=
  ∀ (i : Instr) (s : State), (∃ r, Succeeds i s r) ∨ ∃ e ∈ possibleErrors i, FailsWith i s e

/-- The frame of every command: it completes, and leaves CTRL, the operand and key registers, OVERRUN, LASTOP, ENG.cmd,
the latch, the last bus response, the Host agent and the schedule as they were (60_exceptions.md R181, R182;
10_state.md R22). There is no memory to store to (20_memory.md R60). -/
def Obligations.CommandsLeaveEverythingElseUnchanged : Prop :=
  ∀ (i : Instr) (s : State), ∃ t, exec i s = .next t ∧
    t.ie = s.ie ∧ t.operands = s.operands ∧ t.key = s.key ∧ t.status.overrun = s.status.overrun ∧
    t.status.lastop = s.status.lastop ∧ t.engine.cmd = s.engine.cmd ∧ t.engine.latch = s.engine.latch ∧
    t.engine.busy = false ∧ t.status.done = true ∧
    t.response = s.response ∧ t.host = s.host ∧ t.schedule = s.schedule

/-- 00_scope.md R18: a command is a total function of its latched operands. In any two states with the same latch it
succeeds in both with the same results, or fails in both with the same error. -/
def Obligations.CommandsAreFunctionsOfTheLatch : Prop :=
  ∀ (i : Instr) (s s' : State), s.engine.latch = s'.engine.latch →
    (∃ r, Succeeds i s r ∧ Succeeds i s' r) ∨ ∃ e, FailsWith i s e ∧ FailsWith i s' e

/-- 70_reset_and_hazards.md R211: a Host write to an operand or key register after the issue, while the command runs,
does not change that command: completing after the write gives what writing after the completion gives. -/
def Obligations.WritesAfterIssueAffectOnlyLaterCommands : Prop :=
  ∀ (s : State) (v : Word), s.engine.busy = true →
    ∀ r ∈ [Reg.opa, .opb, .opc, .kp, .kq, .ke],
      ∃ t, engineStep s = .next t ∧ engineStep (writeReg r v s) = .next (writeReg r v t)

/-- 10_state.md R23: only a completion or a reset changes a result register. -/
def Obligations.ResultsChangeOnlyAtCompletionOrReset : Prop :=
  ∀ s t : State, step s = .next t → t.results ≠ s.results →
    (nextTurn s = some .engine ∧ s.engine.busy = true) ∨ nextTurn s = some .reset

/-- 10_state.md R21: the Engine becomes busy only by an accepted CMD write of its command word, a scheduled access or the
Host's own `wr CMD`, which latches the registers as they stood; and only a completion or a reset makes it idle. -/
def Obligations.OnlyIssueAndCompletionMoveTheEngine : Prop :=
  ∀ s t : State, step s = .next t →
    (s.engine.busy = false → t.engine.busy = true →
      t.engine.latch = { operands := s.operands, key := s.key } ∧ t.response = .ack ∧
        (nextTurn s = some (.access (Access.ofWrite .cmd t.engine.cmd)) ∨
          (nextTurn s = some .host ∧
            (hostInstr s.host = some (.wrImm .cmd t.engine.cmd) ∨
              ∃ n : Fin 8, hostInstr s.host = some (.wrTemp .cmd n) ∧ s.host.temps[n] = t.engine.cmd)))) ∧
    (s.engine.busy = true → t.engine.busy = false →
      nextTurn s = some .engine ∨ nextTurn s = some .reset)

/-- 60_exceptions.md R195: only a Host access that reaches the block, a completion, or a reset changes the block's state;
a Host instruction that makes no access changes none of it. That the whole state stays when the schedule is empty, the
Engine idle and the Host agent at its end is the model's choice of what runs then (log entry 2). -/
def Obligations.IdleBlockKeepsItsState : Prop :=
  (∀ s : State, s.schedule = [] → s.engine.busy = false → hostRunning s.host = false → step s = .next s) ∧
  ∀ s t : State, step s = .next t → ¬ SameBlock s t →
    (∃ a, nextTurn s = some (.access a) ∧ a.InWindow) ∨
      (nextTurn s = some .host ∧
        ∃ i a, hostInstr s.host = some i ∧ hostTransaction s.host i = some a ∧ a.InWindow) ∨
      nextTurn s = some .reset ∨
      (nextTurn s = some .engine ∧ s.engine.busy = true)

/-- 30_encoding.md R88: the Host's base instructions. `wr` writes the register, `rd` reads it into the temporary, and
both go on to the next instruction; `bset` branches when `(tN & mask) != 0`; `halt` stays. That a label is the index of
an instruction is the model's choice (log entry 7). -/
def Obligations.HostInstructionsActAsTabled : Prop :=
  ∀ s : State,
    (∀ r v, hostInstr s.host = some (.wrImm r v) →
      ∃ t, hostStep s = .next t ∧ SameBlock (writeReg r v s) t ∧ t.host = { s.host with pos := s.host.pos + 1 }) ∧
    (∀ r (n : Fin 8), hostInstr s.host = some (.wrTemp r n) →
      ∃ t, hostStep s = .next t ∧ SameBlock (writeReg r s.host.temps[n] s) t ∧
        t.host = { s.host with pos := s.host.pos + 1 }) ∧
    (∀ r (n : Fin 8), hostInstr s.host = some (.rd r n) →
      ∃ t, hostStep s = .next t ∧ SameBlock s t ∧
        t.host = { s.host with temps := s.host.temps.set n (readReg r s), pos := s.host.pos + 1 }) ∧
    (∀ (n : Fin 8) mask label, hostInstr s.host = some (.bset n mask label) →
      hostStep s = .next
        { s with host := { s.host with pos := if s.host.temps[n] &&& mask ≠ 0 then label else s.host.pos + 1 } }) ∧
    (hostInstr s.host = some .halt → hostStep s = .next s)

/-! ### Encoding -/

/-- 30_encoding.md R82: the ten command words. -/
def Obligations.TheTenCommandWordsDecode : Prop :=
  decode 0x01 = .ok .codedec ∧ decode 0x02 = .ok .mul ∧ decode 0x03 = .ok .mulmod ∧ decode 0x04 = .ok .modpow ∧
    decode 0x05 = .ok .extgcd ∧ decode 0x06 = .ok .modinv ∧ decode 0x07 = .ok .keyderive ∧ decode 0x08 = .ok .crtdec ∧
    decode 0x09 = .ok .pwenc ∧ decode 0x0A = .ok .decodepw

/-- 30_encoding.md R81: the decoder inverts the encoder exactly, on all 2^64 words: decode of encode i is i, no other
word decodes to i, and a word decodes to some command exactly when it is legal. -/
def Obligations.DecodeInvertsEncodeOnAllWords : Prop :=
  (∀ (w : Word) (i : Instr), decode w = .ok i ↔ w = encode i) ∧
    ∀ w : Word, (∃ i, decode w = .ok i) ↔
      (w.extractLsb' 8 56 = 0#56 ∧ 0x01#8 ≤ w.extractLsb' 0 8 ∧ w.extractLsb' 0 8 ≤ 0x0A#8)

/-! ### CODEDEC -/

/-- 40_code_decoder.md R100, R104: a code of sixteen alphabet symbols completes with C, the code read left to right as
sixteen hexadecimal digits in CODE_ALPHABET. -/
def Obligations.CodedecReadsTheCodeAsHexDigits : Prop :=
  ∀ s : State, ValidCode s.engine.latch.operands.opa s.engine.latch.operands.opb →
    Succeeds .codedec s
      { res0 := BitVec.ofNat 64 (codeValue s.engine.latch.operands.opa s.engine.latch.operands.opb)
        res1 := 0
        res2 := 0
        res3 := 0 }

/-- 40_code_decoder.md R102: a byte that is no alphabet symbol, wherever it stands, ends CODEDEC with INVALID_SYMBOL,
code 0x04, and zero results. -/
def Obligations.CodedecRejectsEveryInvalidSymbol : Prop :=
  (∀ (s : State) (c : Byte),
    c ∈ bytesOf s.engine.latch.operands.opa ++ bytesOf s.engine.latch.operands.opb → c ∉ codeAlphabet →
      FailsWith .codedec s .invalidSymbol) ∧
  CmdError.code .invalidSymbol = 0x04

/-- 40_code_decoder.md R105: every 64-bit C is the output of exactly one code. -/
def Obligations.EveryCiphertextHasExactlyOneCode : Prop :=
  ∀ c : Word, ∃! ab : Word × Word, codeDecode ab.1 ab.2 = .ok c

/-! ### MUL and MULMOD -/

/-- 41_multiplier.md R111: MUL always completes with the exact 128-bit product in RES1 and RES0. -/
def Obligations.MulGivesTheExactProduct : Prop :=
  ∀ s : State, ∃ lo hi : Word,
    Succeeds .mul s { res0 := lo, res1 := hi, res2 := 0, res3 := 0 } ∧ hi.toNat * 2 ^ 64 + lo.toNat = s.a * s.b

/-- 41_multiplier.md R112: MULMOD reduces the full product; a modulus of 0 is BAD_MODULUS. -/
def Obligations.MulmodReducesTheFullProduct : Prop :=
  ∀ s : State,
    (s.c ≠ 0 → ∃ r : Word, Succeeds .mulmod s { res0 := r, res1 := 0, res2 := 0, res3 := 0 } ∧
      r.toNat = s.a * s.b % s.c ∧ r.toNat < s.c) ∧
    (s.c = 0 → FailsWith .mulmod s .badModulus)

/-! ### MODPOW -/

/-- 42_modpow.md R124: MODPOW completes with base^exponent mod modulus, with 0^0 = 1, for every modulus of at least
2; the result is below the modulus. -/
def Obligations.ModpowComputesThePower : Prop :=
  ∀ s : State, 2 ≤ s.c →
    ∃ r : Word, Succeeds .modpow s { res0 := r, res1 := 0, res2 := 0, res3 := 0 } ∧
      r.toNat = s.a ^ s.b % s.c ∧ r.toNat < s.c

/-- 42_modpow.md R121, R122: a modulus of 1 completes with 0 whatever the base and exponent; a modulus of 0 is
BAD_MODULUS; ModPow called from CRTDEC never receives a modulus of 0, so CRTDEC's computation never raises it. -/
def Obligations.ModpowOfModulusOneAndZero : Prop :=
  (∀ s : State, s.c = 1 → Succeeds .modpow s { res0 := 0, res1 := 0, res2 := 0, res3 := 0 }) ∧
  (∀ s : State, s.c = 0 → FailsWith .modpow s .badModulus) ∧
  (∀ c p q e : Nat, crtDecrypt c p q e ≠ .error .badModulus)

/-! ### EXTGCD and MODINV -/

/-- 43_extgcd.md R130: the base case and the recursive step of ExtGcd, for all natural numbers. -/
def Obligations.ExtGcdFollowsItsRecursion : Prop :=
  (∀ a : Nat, extGcd a 0 = { x := 1, y := 0, g := a }) ∧
  ∀ a b : Nat, b ≠ 0 →
    extGcd a b =
      { x := (extGcd b (a % b)).y
        y := (extGcd b (a % b)).x - ((a / b : Nat) : Int) * (extGcd b (a % b)).y
        g := (extGcd b (a % b)).g }

/-- 43_extgcd.md R131, R132: EXTGCD always completes with the two's complement coefficients of ExtGcd and the gcd, and
the signed values in RES0 and RES1 satisfy a*x + b*y = g over the integers. -/
def Obligations.ExtgcdGivesBezoutCoefficients : Prop :=
  ∀ s : State, ∃ x y g : Word,
    Succeeds .extgcd s { res0 := x, res1 := y, res2 := g, res3 := 0 } ∧
      x.toInt = (extGcd s.a s.b).x ∧ y.toInt = (extGcd s.a s.b).y ∧ g.toNat = Nat.gcd s.a s.b ∧
      (s.a : Int) * x.toInt + (s.b : Int) * y.toInt = g.toNat

/-- 43_extgcd.md R133, R134: MODINV of a coprime pair completes with r in [0, m), the inverse of a when m is at least
2 and 0 when m = 1; m = 0 is BAD_MODULUS; a common divisor is NO_MODINV. -/
def Obligations.ModinvInvertsOrFails : Prop :=
  ∀ s : State,
    (s.b ≠ 0 → Nat.gcd s.a s.b = 1 →
      ∃ r : Word, Succeeds .modinv s { res0 := r, res1 := 0, res2 := 0, res3 := 0 } ∧ r.toNat < s.b ∧
        (2 ≤ s.b → s.a * r.toNat % s.b = 1) ∧ (s.b = 1 → r = 0)) ∧
    (s.b = 0 → FailsWith .modinv s .badModulus) ∧
    (s.b ≠ 0 → Nat.gcd s.a s.b ≠ 1 → FailsWith .modinv s .noModinv)

/-! ### KEYDERIVE and CRTDEC -/

/-- 44_crt.md R141, R142: KEYDERIVE completes with d the inverse of e modulo phi, dp = d mod (p-1), dq = d mod (q-1) and
qinv the inverse of q modulo p; p < 2 or q < 2 is KEY_INVALID; otherwise a failing gcd is NO_MODINV. -/
def Obligations.KeyderiveDerivesTheKeyOrFails : Prop :=
  ∀ s : State,
    (KeyDerives s.p s.q s.e →
      ∃ d dp dq qinv : Word, Succeeds .keyderive s { res0 := d, res1 := dp, res2 := dq, res3 := qinv } ∧
        d.toNat < (s.p - 1) * (s.q - 1) ∧ s.e * d.toNat % ((s.p - 1) * (s.q - 1)) = 1 ∧
        dp.toNat = d.toNat % (s.p - 1) ∧ dq.toNat = d.toNat % (s.q - 1) ∧
        qinv.toNat < s.p ∧ s.q * qinv.toNat % s.p = 1) ∧
    (s.p < 2 ∨ s.q < 2 → FailsWith .keyderive s .keyInvalid) ∧
    (2 ≤ s.p → 2 ≤ s.q → Nat.gcd s.e ((s.p - 1) * (s.q - 1)) ≠ 1 ∨ Nat.gcd s.q s.p ≠ 1 →
      FailsWith .keyderive s .noModinv)

/-- 44_crt.md R140: p and q of the reset key are prime, e is coprime to phi, and KEYDERIVE on the reset key completes
with the tabled d, dp, dq and qinv. -/
def Obligations.ResetKeyIsAsTabled : Prop :=
  Nat.Prime 2795287379 ∧ Nat.Prime 3544934711 ∧ 2795287379 * 3544934711 = 0x89843C30038891D5 ∧
    (2795287379 - 1) * (3544934711 - 1) = 0x89843C2E89A0754C ∧ Nat.gcd 41 0x89843C2E89A0754C = 1 ∧
    ∀ s : State, s.engine.latch.key = { kp := 2795287379#32, kq := 3544934711#32, ke := 41#32 } →
      Succeeds .keyderive s
        { res0 := 0x283FADB634C4D129, res1 := 0x38E45635, res2 := 0x19C48377, res3 := 0x6B057C81 }

/-- 44_crt.md R143, R145, R147: with a key KeyDerive accepts, CRTDEC of any 64-bit C completes with M = h*q + m2 below
p*q, m1 = M mod p, m2 = M mod q and h in [0, p), and M is the plaintext with the CRT residues of C; the errors are those
of KeyDerive, in its order. -/
def Obligations.CrtdecRecombinesTheResidues : Prop :=
  ∀ s : State,
    (KeyDerives s.p s.q s.e →
      ∃ m m1 m2 h : Word, Succeeds .crtdec s { res0 := m, res1 := m1, res2 := m2, res3 := h } ∧
        CrtPlaintext s.a s.p s.q s.e m.toNat ∧ m1.toNat = m.toNat % s.p ∧ m2.toNat = m.toNat % s.q ∧
        h.toNat < s.p ∧ m.toNat = h.toNat * s.q + m2.toNat) ∧
    (s.p < 2 ∨ s.q < 2 → FailsWith .crtdec s .keyInvalid) ∧
    (2 ≤ s.p → 2 ≤ s.q → Nat.gcd s.e ((s.p - 1) * (s.q - 1)) ≠ 1 ∨ Nat.gcd s.q s.p ≠ 1 →
      FailsWith .crtdec s .noModinv)

/-- 44_crt.md R146: for distinct primes p and q with gcd(e, phi) = 1 and dp, dq at least 1, CRTDEC completes with
M = C^d mod n for every C. -/
def Obligations.CrtdecIsRsaDecryption : Prop :=
  ∀ (s : State) (k : DerivedKey), Nat.Prime s.p → Nat.Prime s.q → s.p ≠ s.q →
    keyDerive s.p s.q s.e = .ok k → 1 ≤ k.dp → 1 ≤ k.dq →
    ∃ m m1 m2 h : Word, Succeeds .crtdec s { res0 := m, res1 := m1, res2 := m2, res3 := h } ∧
      m.toNat = s.a ^ k.d % (s.p * s.q)

/-- 44_crt.md R146: with the reset key, for every M0 below n, MODPOW of (M0, 41, n) completes with some C, and CRTDEC
of that C gives back M0. -/
def Obligations.ResetKeyRoundTrip : Prop :=
  ∀ s s' : State, s.a < 0x89843C30038891D5 → s.b = 41 → s.c = 0x89843C30038891D5 →
    s'.engine.latch.key = { kp := 2795287379#32, kq := 3544934711#32, ke := 41#32 } →
    ∃ c : Word, Succeeds .modpow s { res0 := c, res1 := 0, res2 := 0, res3 := 0 } ∧
      (s'.engine.latch.operands.opa = c →
        ∃ m1 m2 h : Word,
          Succeeds .crtdec s' { res0 := s.engine.latch.operands.opa, res1 := m1, res2 := m2, res3 := h })

/-! ### PWENC and DECODEPW -/

/-- 45_password_encoder.md R160: PWENC always completes; character i of the password is the PW_ALPHABET symbol of the
three bits of v = V[31:0] at shift 21 - 3*i. -/
def Obligations.PwencMapsTheEightFields : Prop :=
  ∀ s : State, ∃ w : Word, Succeeds .pwenc s { res0 := w, res1 := 0, res2 := 0, res3 := 0 } ∧
    ∀ i < 8, pwAlphabet[((s.a % 2 ^ 32) >>> (21 - 3 * i)) % 8]? = some (byteOf w i)

/-- 45_password_encoder.md R162: the password is a bijective image of v[23:0]: two vectors have the same password
exactly when their low 24 bits agree. -/
def Obligations.PasswordDeterminesTheLow24Bits : Prop :=
  ∀ v v' : Word, pwEncode v = pwEncode v' ↔ v.extractLsb' 0 24 = v'.extractLsb' 0 24

/-- 45_password_encoder.md R163: whenever PWENC or DECODEPW succeeds from an issued command, every byte of RES0 is a
PW_ALPHABET symbol. -/
def Obligations.PasswordCharactersAreInTheAlphabet : Prop :=
  ∀ (i : Instr) (s t : State), i = .pwenc ∨ i = .decodepw → exec i s = .next t → s.status.err = false →
    t.status.err = false → ∀ c ∈ bytesOf t.results.res0, c ∈ pwAlphabet

/-- 46_decode_password.md R170: with a valid code and a key KeyDerive accepts, DECODEPW completes with the password of
M, C and M, where C is the code's value and M its CRT plaintext. -/
def Obligations.DecodepwRunsTheWholePipeline : Prop :=
  ∀ s : State, ValidCode s.engine.latch.operands.opa s.engine.latch.operands.opb → KeyDerives s.p s.q s.e →
    ∃ c m : Word,
      Succeeds .decodepw s { res0 := pwEncode m, res1 := c, res2 := m, res3 := 0 } ∧
        c.toNat = codeValue s.engine.latch.operands.opa s.engine.latch.operands.opb ∧
        CrtPlaintext c.toNat s.p s.q s.e m.toNat

/-- 46_decode_password.md R170, 60_exceptions.md R185: DECODEPW's errors in stage order: INVALID_SYMBOL, then
KEY_INVALID, then NO_MODINV. -/
def Obligations.DecodepwFailsInStageOrder : Prop :=
  ∀ s : State,
    (¬ ValidCode s.engine.latch.operands.opa s.engine.latch.operands.opb → FailsWith .decodepw s .invalidSymbol) ∧
    (ValidCode s.engine.latch.operands.opa s.engine.latch.operands.opb →
      (s.p < 2 ∨ s.q < 2 → FailsWith .decodepw s .keyInvalid) ∧
      (2 ≤ s.p → 2 ≤ s.q → Nat.gcd s.e ((s.p - 1) * (s.q - 1)) ≠ 1 ∨ Nat.gcd s.q s.p ≠ 1 →
        FailsWith .decodepw s .noModinv))

/-- 46_decode_password.md R172: DECODEPW has the results of CODEDEC, CRTDEC on its result, PWENC on that result, when
each of the three succeeds from an issued command. -/
def Obligations.DecodepwEqualsTheThreeCommands : Prop :=
  ∀ (s s2 s3 t1 t2 t3 : State),
    s.status.err = false → exec .codedec s = .next t1 → t1.status.err = false →
    s2.status.err = false → s2.engine.latch.operands.opa = t1.results.res0 → s2.engine.latch.key = s.engine.latch.key →
    exec .crtdec s2 = .next t2 → t2.status.err = false →
    s3.engine.latch.operands.opa = t2.results.res0 → exec .pwenc s3 = .next t3 →
    Succeeds .decodepw s
      { res0 := t3.results.res0, res1 := t1.results.res0, res2 := t2.results.res0, res3 := 0 }
end

