-- ==== Sys2Proof/Laws/State.lean ====
section
/-! SUPPORT. One lemma per field per update of State, true by rfl, so that no later proof unfolds a record update. -/

namespace Sys2Proof.Machine

variable (s : State)

section issue
variable (v : Word)
@[simp] theorem State.issue_ie : (s.issue v).ie = s.ie := rfl
@[simp] theorem State.issue_done : (s.issue v).status.done = false := rfl
@[simp] theorem State.issue_err : (s.issue v).status.err = false := rfl
@[simp] theorem State.issue_overrun : (s.issue v).status.overrun = s.status.overrun := rfl
@[simp] theorem State.issue_errcode : (s.issue v).status.errcode = 0 := rfl
@[simp] theorem State.issue_lastop : (s.issue v).status.lastop = v.setWidth 8 := rfl
@[simp] theorem State.issue_operands : (s.issue v).operands = s.operands := rfl
@[simp] theorem State.issue_key : (s.issue v).key = s.key := rfl
@[simp] theorem State.issue_results : (s.issue v).results = s.results := rfl
@[simp] theorem State.issue_busy : (s.issue v).engine.busy = true := rfl
@[simp] theorem State.issue_engineCmd : (s.issue v).engine.cmd = v := rfl
@[simp] theorem State.issue_latchOperands : (s.issue v).engine.latch.operands = s.operands := rfl
@[simp] theorem State.issue_latchKey : (s.issue v).engine.latch.key = s.key := rfl
@[simp] theorem State.issue_response : (s.issue v).response = s.response := rfl
@[simp] theorem State.issue_host : (s.issue v).host = s.host := rfl
@[simp] theorem State.issue_schedule : (s.issue v).schedule = s.schedule := rfl
end issue

section complete
variable (r : ResultRegs)
@[simp] theorem State.complete_ie : (s.complete r).ie = s.ie := rfl
@[simp] theorem State.complete_done : (s.complete r).status.done = true := rfl
@[simp] theorem State.complete_err : (s.complete r).status.err = s.status.err := rfl
@[simp] theorem State.complete_overrun : (s.complete r).status.overrun = s.status.overrun := rfl
@[simp] theorem State.complete_errcode : (s.complete r).status.errcode = s.status.errcode := rfl
@[simp] theorem State.complete_lastop : (s.complete r).status.lastop = s.status.lastop := rfl
@[simp] theorem State.complete_operands : (s.complete r).operands = s.operands := rfl
@[simp] theorem State.complete_key : (s.complete r).key = s.key := rfl
@[simp] theorem State.complete_results : (s.complete r).results = r := rfl
@[simp] theorem State.complete_busy : (s.complete r).engine.busy = false := rfl
@[simp] theorem State.complete_engineCmd : (s.complete r).engine.cmd = s.engine.cmd := rfl
@[simp] theorem State.complete_latch : (s.complete r).engine.latch = s.engine.latch := rfl
@[simp] theorem State.complete_response : (s.complete r).response = s.response := rfl
@[simp] theorem State.complete_host : (s.complete r).host = s.host := rfl
@[simp] theorem State.complete_schedule : (s.complete r).schedule = s.schedule := rfl
end complete

section raise
variable (e : CmdError)
@[simp] theorem State.raise_ie : (s.raise e).ie = s.ie := rfl
@[simp] theorem State.raise_done : (s.raise e).status.done = true := rfl
@[simp] theorem State.raise_err : (s.raise e).status.err = true := rfl
@[simp] theorem State.raise_overrun : (s.raise e).status.overrun = s.status.overrun := rfl
@[simp] theorem State.raise_errcode : (s.raise e).status.errcode = e.code := rfl
@[simp] theorem State.raise_lastop : (s.raise e).status.lastop = s.status.lastop := rfl
@[simp] theorem State.raise_operands : (s.raise e).operands = s.operands := rfl
@[simp] theorem State.raise_key : (s.raise e).key = s.key := rfl
@[simp] theorem State.raise_results :
    (s.raise e).results = { res0 := 0, res1 := 0, res2 := 0, res3 := 0 } := rfl
@[simp] theorem State.raise_busy : (s.raise e).engine.busy = false := rfl
@[simp] theorem State.raise_engineCmd : (s.raise e).engine.cmd = s.engine.cmd := rfl
@[simp] theorem State.raise_latch : (s.raise e).engine.latch = s.engine.latch := rfl
@[simp] theorem State.raise_response : (s.raise e).response = s.response := rfl
@[simp] theorem State.raise_host : (s.raise e).host = s.host := rfl
@[simp] theorem State.raise_schedule : (s.raise e).schedule = s.schedule := rfl
end raise

section writeStatus
variable (v : Word)
@[simp] theorem State.writeStatus_ie : (s.writeStatus v).ie = s.ie := rfl
@[simp] theorem State.writeStatus_done :
    (s.writeStatus v).status.done = (s.status.done && !v.getLsbD 1) := rfl
@[simp] theorem State.writeStatus_err :
    (s.writeStatus v).status.err = (s.status.err && !v.getLsbD 2) := rfl
@[simp] theorem State.writeStatus_overrun :
    (s.writeStatus v).status.overrun = (s.status.overrun && !v.getLsbD 3) := rfl
@[simp] theorem State.writeStatus_errcode :
    (s.writeStatus v).status.errcode = if v.getLsbD 2 then 0 else s.status.errcode := rfl
@[simp] theorem State.writeStatus_lastop : (s.writeStatus v).status.lastop = s.status.lastop := rfl
@[simp] theorem State.writeStatus_operands : (s.writeStatus v).operands = s.operands := rfl
@[simp] theorem State.writeStatus_key : (s.writeStatus v).key = s.key := rfl
@[simp] theorem State.writeStatus_results : (s.writeStatus v).results = s.results := rfl
@[simp] theorem State.writeStatus_engine : (s.writeStatus v).engine = s.engine := rfl
@[simp] theorem State.writeStatus_response : (s.writeStatus v).response = s.response := rfl
@[simp] theorem State.writeStatus_host : (s.writeStatus v).host = s.host := rfl
@[simp] theorem State.writeStatus_schedule : (s.writeStatus v).schedule = s.schedule := rfl
end writeStatus

section resetBlock
@[simp] theorem State.resetBlock_ie : s.resetBlock.ie = State.reset.ie := rfl
@[simp] theorem State.resetBlock_status : s.resetBlock.status = State.reset.status := rfl
@[simp] theorem State.resetBlock_operands : s.resetBlock.operands = State.reset.operands := rfl
@[simp] theorem State.resetBlock_key : s.resetBlock.key = State.reset.key := rfl
@[simp] theorem State.resetBlock_results : s.resetBlock.results = State.reset.results := rfl
@[simp] theorem State.resetBlock_engine : s.resetBlock.engine = State.reset.engine := rfl
@[simp] theorem State.resetBlock_response : s.resetBlock.response = .idle := rfl
@[simp] theorem State.resetBlock_host : s.resetBlock.host = s.host := rfl
@[simp] theorem State.resetBlock_schedule : s.resetBlock.schedule = s.schedule := rfl
end resetBlock

section popTurn
@[simp] theorem State.popTurn_ie : s.popTurn.ie = s.ie := rfl
@[simp] theorem State.popTurn_status : s.popTurn.status = s.status := rfl
@[simp] theorem State.popTurn_operands : s.popTurn.operands = s.operands := rfl
@[simp] theorem State.popTurn_key : s.popTurn.key = s.key := rfl
@[simp] theorem State.popTurn_results : s.popTurn.results = s.results := rfl
@[simp] theorem State.popTurn_engine : s.popTurn.engine = s.engine := rfl
@[simp] theorem State.popTurn_response : s.popTurn.response = s.response := rfl
@[simp] theorem State.popTurn_host : s.popTurn.host = s.host := rfl
@[simp] theorem State.popTurn_schedule : s.popTurn.schedule = s.schedule.tail := rfl
end popTurn

section issuedNext
variable (w : Word)
@[simp] theorem State.issuedNext_ie : (s.issuedNext w).ie = s.ie := rfl
@[simp] theorem State.issuedNext_status : (s.issuedNext w).status = (s.issue w).status := rfl
@[simp] theorem State.issuedNext_operands : (s.issuedNext w).operands = s.operands := rfl
@[simp] theorem State.issuedNext_key : (s.issuedNext w).key = s.key := rfl
@[simp] theorem State.issuedNext_results : (s.issuedNext w).results = s.results := rfl
@[simp] theorem State.issuedNext_engine : (s.issuedNext w).engine = (s.issue w).engine := rfl
@[simp] theorem State.issuedNext_response : (s.issuedNext w).response = s.response := rfl
@[simp] theorem State.issuedNext_host : (s.issuedNext w).host = s.host := rfl
@[simp] theorem State.issuedNext_schedule : (s.issuedNext w).schedule = .engine :: s.schedule := rfl
end issuedNext

end Sys2Proof.Machine
end

