-- ==== Sys2Proof/Laws/Ops.lean ====
section
/-! SUPPORT. One lemma per shared operation that says everything it can do; provers cite these instead of unfolding. -/

namespace Sys2Proof.Machine

/-- A command's pseudocode on the latch, by command. -/
def runOf : Instr → Latch → Except CmdError ResultRegs
  | .codedec => runCodedec
  | .mul => runMul
  | .mulmod => runMulmod
  | .modpow => runModpow
  | .extgcd => runExtgcd
  | .modinv => runModinv
  | .keyderive => runKeyderive
  | .crtdec => runCrtdec
  | .pwenc => runPwenc
  | .decodepw => runDecodepw

/-- Every meaning is `finish` of its pseudocode on the latch. -/
theorem exec_eq_finish (i : Instr) (s : State) : exec i s = finish (runOf i s.engine.latch) s := by
  cases i <;> rfl

@[simp] theorem finish_ok (r : ResultRegs) (s : State) : finish (.ok r) s = .next (s.complete r) := rfl

@[simp] theorem finish_error (e : CmdError) (s : State) : finish (.error e) s = .next (s.raise e) := rfl

/-- `finish` always answers a next state: a successful completion or an error completion. -/
theorem finish_cases (c : Except CmdError ResultRegs) (s : State) :
    (∃ r, c = .ok r ∧ finish c s = .next (s.complete r)) ∨
      (∃ e, c = .error e ∧ finish c s = .next (s.raise e)) := by
  cases c with
  | ok r => exact .inl ⟨r, rfl, rfl⟩
  | error e => exact .inr ⟨e, rfl, rfl⟩

/-- No error has the code of NONE (60_exceptions.md R183). -/
@[simp] theorem CmdError.code_ne_zero (e : CmdError) : e.code ≠ 0#8 := by cases e <;> decide

/-- Every error's code is at most 0x05 (60_exceptions.md R183). -/
theorem CmdError.code_le (e : CmdError) : e.code.toNat ≤ 5 := by cases e <;> decide

/-- The Engine's step: idle, an illegal word, or a legal command. -/
theorem engineStep_cases (s : State) :
    (s.engine.busy = false ∧ engineStep s = .next s) ∨
      (s.engine.busy = true ∧ (∃ e, decode s.engine.cmd = .error e) ∧
        engineStep s = .next (s.raise .illegalCommand)) ∨
      (s.engine.busy = true ∧ ∃ i, decode s.engine.cmd = .ok i ∧ engineStep s = exec i s) := by
  unfold engineStep
  cases hb : s.engine.busy with
  | false => exact .inl ⟨rfl, rfl⟩
  | true =>
    cases hd : decode s.engine.cmd with
    | ok i => exact .inr (.inr ⟨rfl, i, rfl, rfl⟩)
    | error e => exact .inr (.inl ⟨rfl, ⟨e, rfl⟩, rfl⟩)

/-- The Engine's step always answers a next state: idle it changes nothing, busy it completes. -/
theorem engineStep_next (s : State) :
    (s.engine.busy = false ∧ engineStep s = .next s) ∨
      (s.engine.busy = true ∧ ∃ r, engineStep s = .next (s.complete r)) ∨
      (s.engine.busy = true ∧ ∃ e, engineStep s = .next (s.raise e)) := by
  obtain ⟨hb, h⟩ | ⟨hb, -, h⟩ | ⟨hb, i, -, h⟩ := engineStep_cases s
  · exact .inl ⟨hb, h⟩
  · exact .inr (.inr ⟨hb, _, h⟩)
  · rw [exec_eq_finish] at h
    obtain ⟨r, -, hr⟩ | ⟨e, -, he⟩ := finish_cases (runOf i s.engine.latch) s
    · exact .inr (.inl ⟨hb, r, h.trans hr⟩)
    · exact .inr (.inr ⟨hb, e, h.trans he⟩)

/-- A write to CMD: an overrun, or an issue. -/
theorem writeCmd_cases (v : Word) (s : State) :
    (s.engine.busy = true ∧ s.writeCmd v = { s with status := { s.status with overrun := true } }) ∨
      (s.engine.busy = false ∧ s.writeCmd v = s.issue v) := by
  unfold State.writeCmd
  cases s.engine.busy
  · exact .inr ⟨rfl, rfl⟩
  · exact .inl ⟨rfl, rfl⟩

/-- A legal register write never touches the results, the last response, the Host agent or the schedule. -/
theorem writeReg_frame (r : Reg) (v : Word) (s : State) :
    (writeReg r v s).results = s.results ∧ (writeReg r v s).response = s.response ∧
      (writeReg r v s).host = s.host ∧ (writeReg r v s).schedule = s.schedule := by
  cases r
  case cmd =>
    obtain ⟨-, h⟩ | ⟨-, h⟩ := writeCmd_cases v s <;> simp [writeReg, h]
  all_goals simp [writeReg]

/-- One access: outside the window, a bus error, a read, or a write. -/
theorem busAccess_cases (a : Access) (s : State) :
    (windowOffset a.addr = none ∧ busAccess a s = (.idle, s)) ∨
      ∃ off, windowOffset a.addr = some off ∧
        ((legalReg off a.width = none ∧ busAccess a s = (.error, s)) ∨
          ∃ r, legalReg off a.width = some r ∧
            ((a.kind = .read ∧ busAccess a s = (.data (readReg r s), s)) ∨
              ∃ v, a.kind = .write v ∧ busAccess a s = (.ack, writeReg r v s))) := by
  unfold busAccess
  cases hw : windowOffset a.addr with
  | none => exact .inl ⟨rfl, rfl⟩
  | some off =>
    refine .inr ⟨off, rfl, ?_⟩
    cases hr : legalReg off a.width with
    | none => exact .inl ⟨rfl, by simp [hr]⟩
    | some r =>
      refine .inr ⟨r, rfl, ?_⟩
      cases hk : a.kind with
      | read => exact .inl ⟨rfl, by simp [hr]⟩
      | write v => exact .inr ⟨v, rfl, by simp [hr]⟩

/-- A register's own offset is legal and finds the register again. -/
@[simp] theorem legalReg_offset (r : Reg) : legalReg r.offset 8 = some r := by cases r <;> rfl

/-- The offset of an address given as base plus offset. -/
theorem windowOffset_base {off : Nat} (h : off < 0x100) : windowOffset (Config.baseAddr + off) = some off := by
  unfold windowOffset
  have hlo : Config.baseAddr ≤ Config.baseAddr + off := Nat.le_add_right _ _
  have hhi : Config.baseAddr + off < Config.baseAddr + Config.windowSize := Nat.add_lt_add_left h _
  rw [if_pos ⟨hlo, hhi⟩, Nat.add_sub_cancel_left]

/-- An address in the window reaches the block at its offset (20_memory.md R61). -/
theorem windowOffset_inWindow {a : Access} (h : a.InWindow) : windowOffset a.addr = some a.off := if_pos h

/-- An address outside the window does not reach the block (20_memory.md R61). -/
theorem windowOffset_outside {a : Access} (h : ¬ a.InWindow) : windowOffset a.addr = none := if_neg h

/-- The offset of an access in the window. -/
theorem Access.off_lt {a : Access} (h : a.InWindow) : a.off < 0x100 := by
  have hlo := h.1
  have hhi := h.2
  unfold Access.off
  omega

/-- An offset in the window has no legal register exactly when the width is not 8 bytes, the offset is misaligned, or
it is a reserved offset (20_memory.md R62, R63). -/
theorem legalReg_eq_none_iff {off width : Nat} (h : off < 0x100) :
    legalReg off width = none ↔ width ≠ 8 ∨ off % 8 ≠ 0 ∨ 0x70 ≤ off := by
  unfold legalReg
  by_cases hw : width = 8 <;> by_cases ha : off % 8 = 0 <;> simp [hw, ha, Reg.all, Reg.offset]
  omega

/-- Every register lies in the window (10_state.md R34). -/
theorem Reg.offset_lt (r : Reg) : r.offset < 0x100 := by cases r <;> decide

/-- An address that reaches the block is BASE_ADDR plus its offset (20_memory.md R61). -/
theorem windowOffset_eq_some {addr off : Nat} (h : windowOffset addr = some off) : addr = Config.baseAddr + off := by
  unfold windowOffset at h
  split at h
  · rename_i hw
    cases h
    omega
  · cases h

/-- A legal offset is a register's own, and the width is 8 bytes (20_memory.md R62, 10_state.md R34). -/
theorem legalReg_eq_some {off width : Nat} {r : Reg} (h : legalReg off width = some r) :
    width = 8 ∧ r.offset = off := by
  unfold legalReg at h
  split at h
  · rename_i hw
    exact ⟨hw.1, by simpa using List.find?_some h⟩
  · cases h

/-- An access step that goes on records a response and leaves the block as it was, or is one legal write, which names
its register. -/
theorem accessStep_next {a : Access} {s t : State} (h : accessStep a s = .next t) :
    (∃ resp, t = { s with response := resp }) ∨
      ∃ r v, a = Access.ofWrite r v ∧ t = { writeReg r v s with response := .ack } := by
  unfold accessStep at h
  obtain ⟨-, hb⟩ | ⟨off, ho, ⟨-, hb⟩ | ⟨r, hr, ⟨-, hb⟩ | ⟨v, hk, hb⟩⟩⟩ := busAccess_cases a s <;>
    rw [hb] at h
  · cases h; exact .inl ⟨_, rfl⟩
  · cases h
  · cases h; exact .inl ⟨_, rfl⟩
  · cases h
    obtain ⟨hw, rfl⟩ := legalReg_eq_some hr
    refine .inr ⟨r, v, ?_, rfl⟩
    cases a
    cases hw
    cases hk
    cases windowOffset_eq_some ho
    rfl

/-- An access step is never refused. -/
theorem accessStep_not_refused {a : Access} {s : State} {r : Refusal} : accessStep a s ≠ .refused r := by
  unfold accessStep
  obtain ⟨-, hb⟩ | ⟨_, -, ⟨-, hb⟩ | ⟨r, -, ⟨-, hb⟩ | ⟨v, -, hb⟩⟩⟩ := busAccess_cases a s <;>
    rw [hb] <;> intro h <;> cases h

/-- A Host instruction that goes on advances the Host agent only, or does so after the access step of its own
transaction. -/
theorem hostStep_next {s t : State} (h : hostStep s = .next t) :
    (∃ ag, t = { s with host := ag }) ∨
      ∃ i a u ag, hostInstr s.host = some i ∧ hostTransaction s.host i = some a ∧ accessStep a s = .next u ∧
        t = { u with host := ag } := by
  unfold hostStep at h
  cases hi : hostInstr s.host with
  | none => rw [hi] at h; cases h; exact .inl ⟨s.host, rfl⟩
  | some i =>
    cases ht : hostTransaction s.host i with
    | none => simp only [hi, ht] at h; cases h; exact .inl ⟨_, rfl⟩
    | some a =>
      cases hu : accessStep a s with
      | next u => simp only [hi, ht, hu] at h; cases h; exact .inr ⟨i, a, u, _, rfl, ht, hu, rfl⟩
      | fault r => simp only [hi, ht, hu] at h; cases h
      | refused r => simp only [hi, ht, hu] at h; cases h

/-- Everything a turn can do when it goes on: nothing to the block, one legal write, a completion, or a reset. -/
theorem runTurn_next {tn : Turn} {s t : State} (h : runTurn tn s = .next t) :
    (∃ resp ag, t = { s with response := resp, host := ag }) ∨
      (∃ r v ag, t = { writeReg r v s with response := .ack, host := ag }) ∨
      (s.engine.busy = true ∧ ∃ r, t = s.complete r) ∨ (s.engine.busy = true ∧ ∃ e, t = s.raise e) ∨
      t = s.resetBlock := by
  cases tn with
  | host =>
    obtain ⟨ag, rfl⟩ | ⟨_, a, u, ag, -, -, ha, rfl⟩ := hostStep_next h
    · exact .inl ⟨s.response, ag, rfl⟩
    · obtain ⟨resp, rfl⟩ | ⟨r, v, -, rfl⟩ := accessStep_next ha
      · exact .inl ⟨resp, ag, rfl⟩
      · exact .inr (.inl ⟨r, v, ag, rfl⟩)
  | access a =>
    obtain ⟨resp, rfl⟩ | ⟨r, v, -, rfl⟩ := accessStep_next h
    · exact .inl ⟨resp, s.host, rfl⟩
    · refine .inr (.inl ⟨r, v, s.host, ?_⟩)
      rw [← (writeReg_frame r v s).2.2.1]
  | engine =>
    obtain ⟨-, he⟩ | ⟨hb, r, he⟩ | ⟨hb, e, he⟩ := engineStep_next s <;> rw [runTurn, he] at h <;> cases h
    · exact .inl ⟨s.response, s.host, rfl⟩
    · exact .inr (.inr (.inl ⟨hb, r, rfl⟩))
    · exact .inr (.inr (.inr (.inl ⟨hb, e, rfl⟩)))
  | reset => cases h; exact .inr (.inr (.inr (.inr rfl)))

/-- A step takes the next turn, or leaves the state as it is. -/
theorem step_cases (s : State) :
    (nextTurn s = none ∧ step s = .next s) ∨ ∃ tn, nextTurn s = some tn ∧ step s = runTurn tn s.popTurn := by
  unfold step takeTurn
  cases h : nextTurn s with
  | none => exact .inl ⟨rfl, rfl⟩
  | some tn => exact .inr ⟨tn, rfl, rfl⟩

/-- The step on a state with a command issued and the Engine's turn next runs that command's turn. -/
theorem step_issuedNext (w : Word) (s : State) : step (s.issuedNext w) = engineStep (s.issuedNext w).popTurn := rfl

/-- A read of a register by name. -/
@[simp] theorem busAccess_ofRead (r : Reg) (s : State) : busAccess (Access.ofRead r) s = (.data (readReg r s), s) := by
  simp [busAccess, Access.ofRead, windowOffset_base r.offset_lt]

/-- A write of a register by name. -/
@[simp] theorem busAccess_ofWrite (r : Reg) (v : Word) (s : State) :
    busAccess (Access.ofWrite r v) s = (.ack, writeReg r v s) := by
  simp [busAccess, Access.ofWrite, windowOffset_base r.offset_lt]

/-- An access step that writes a register by name. -/
theorem accessStep_ofWrite (r : Reg) (v : Word) (s : State) :
    accessStep (Access.ofWrite r v) s = .next { writeReg r v s with response := .ack } := by
  simp [accessStep]

/-- An access step that reads a register by name. -/
theorem accessStep_ofRead (r : Reg) (s : State) :
    accessStep (Access.ofRead r) s = .next { s with response := .data (readReg r s) } := by
  simp [accessStep]

/-- A named write lies in the window (10_state.md R34). -/
theorem Access.ofWrite_inWindow (r : Reg) (v : Word) : (Access.ofWrite r v).InWindow :=
  ⟨Nat.le_add_right _ _, Nat.add_lt_add_left r.offset_lt _⟩

/-- A Host instruction whose transaction is a named write is the `wr` of that value (30_encoding.md R88). -/
theorem hostTransaction_ofWrite {h : HostAgent} {i : HostInstr} {r : Reg} {v : Word}
    (ht : hostTransaction h i = some (Access.ofWrite r v)) :
    i = .wrImm r v ∨ ∃ n, i = .wrTemp r n ∧ h.temps[n] = v := by
  have same : ∀ {r' : Reg} {v' : Word}, Access.ofWrite r' v' = Access.ofWrite r v → r' = r ∧ v' = v := by
    intro r' v' he
    simp only [Access.ofWrite, Access.mk.injEq, AccessKind.write.injEq, true_and] at he
    refine ⟨?_, he.2⟩
    have ho : r'.offset = r.offset := by omega
    have hr := legalReg_offset r'
    rw [ho, legalReg_offset] at hr
    exact (Option.some.inj hr).symm
  cases i with
  | wrImm r' v' => obtain ⟨rfl, rfl⟩ := same (Option.some.inj ht); exact .inl rfl
  | wrTemp r' n => obtain ⟨rfl, hv⟩ := same (Option.some.inj ht); exact .inr ⟨n, rfl, hv⟩
  | rd r' n => simp [hostTransaction, Access.ofRead, Access.ofWrite] at ht
  | bset n mask label => cases ht
  | halt => cases ht

/-- A Host instruction whose transaction goes on: the access, then the agent advances. -/
theorem hostStep_access {s t : State} {i : HostInstr} {a : Access} (hi : hostInstr s.host = some i)
    (ha : hostTransaction s.host i = some a) (ht : accessStep a s = .next t) :
    hostStep s = .next { t with host := hostAdvance t.host i t.response.readData } := by
  simp [hostStep, hi, ha, ht]

/-- A Host instruction that makes no transaction advances the agent only. -/
theorem hostStep_local {s : State} {i : HostInstr} (hi : hostInstr s.host = some i)
    (ha : hostTransaction s.host i = none) : hostStep s = .next { s with host := hostAdvance s.host i 0 } := by
  simp [hostStep, hi, ha]

/-- The step on a state with a schedule takes its head. -/
theorem step_scheduled {s : State} {tn : Turn} {rest : List Turn} (h : s.schedule = tn :: rest) :
    step s = runTurn tn s.popTurn := by
  simp [step, takeTurn, nextTurn, h]

end Sys2Proof.Machine
end

