-- ==== Sys2Proof/Laws/PerInstr.lean ====
section
/-! SUPPORT. The family LegalWord: every command's encoding is a legal command word whose RSVD field is zero and
whose low byte is the command's opcode (30_encoding.md R80, R81). -/

namespace Sys2Proof.Laws.LegalWord

/-- What the family says of one command. -/
def Statement (i : Instr) : Prop :=
  i.wf = true ∧ CommandWord.wf (encode i) = true ∧ (encode i).setWidth 8 = opcode i

theorem codedec : Statement .codedec := ⟨rfl, by decide, by decide⟩
theorem mul : Statement .mul := ⟨rfl, by decide, by decide⟩
theorem mulmod : Statement .mulmod := ⟨rfl, by decide, by decide⟩
theorem modpow : Statement .modpow := ⟨rfl, by decide, by decide⟩
theorem extgcd : Statement .extgcd := ⟨rfl, by decide, by decide⟩
theorem modinv : Statement .modinv := ⟨rfl, by decide, by decide⟩
theorem keyderive : Statement .keyderive := ⟨rfl, by decide, by decide⟩
theorem crtdec : Statement .crtdec := ⟨rfl, by decide, by decide⟩
theorem pwenc : Statement .pwenc := ⟨rfl, by decide, by decide⟩
theorem decodepw : Statement .decodepw := ⟨rfl, by decide, by decide⟩

end Sys2Proof.Laws.LegalWord
end

