-- ==== Sys2Proof/Tests/Slice0.lean ====
section
/-! SUPPORT. The model's own tests: decoding, the WellFormed smoke, one or two vectors of 95_test_vectors.md for each
command, registers and bus, and the witnesses of the obligations' hypotheses. Expected values come from the spec. -/

namespace Sys2Proof.Tests

open Sys2Proof.Machine

/-! ### Decoding (30_encoding.md R80 to R83): OPCODE in [7:0], RSVD [63:8] -/

theorem test_decode_codedec : decode (0#56 ++ 0b00000001#8) = .ok .codedec := by decide
theorem test_decode_mul : decode (0#56 ++ 0b00000010#8) = .ok .mul := by decide
theorem test_decode_mulmod : decode (0#56 ++ 0b00000011#8) = .ok .mulmod := by decide
theorem test_decode_modpow : decode (0#56 ++ 0b00000100#8) = .ok .modpow := by decide
theorem test_decode_extgcd : decode (0#56 ++ 0b00000101#8) = .ok .extgcd := by decide
theorem test_decode_modinv : decode (0#56 ++ 0b00000110#8) = .ok .modinv := by decide
theorem test_decode_keyderive : decode (0#56 ++ 0b00000111#8) = .ok .keyderive := by decide
theorem test_decode_crtdec : decode (0#56 ++ 0b00001000#8) = .ok .crtdec := by decide
theorem test_decode_pwenc : decode (0#56 ++ 0b00001001#8) = .ok .pwenc := by decide
theorem test_decode_decodepw : decode (0#56 ++ 0b00001010#8) = .ok .decodepw := by decide

/-- V-ILL-1 and V-ILL-2: reserved opcodes. -/
theorem test_decode_reserved_opcode :
    decode 0x00 = .error .opcodeReserved ∧ decode 0x0B = .error .opcodeReserved ∧
      decode 0xFF = .error .opcodeReserved := by decide

/-- V-ILL-4 and V-ILL-5: a bit of [63:8] set. -/
theorem test_decode_reserved_bits :
    decode 0x0000000000000104 = .error .rsvdNotZero ∧ decode 0x8000000000000001 = .error .rsvdNotZero := by decide

theorem test_decodeTableWord :
    decodeTableWord 64 0x0A = some .decodepw ∧ decodeTableWord 64 0x0B = none ∧
      decodeTableWord 64 0x104 = none := by decide

/-- No two rows of the opcode table share a word. -/
theorem test_opcodeTable_rows_disjoint :
    opcodeTable.Pairwise (fun r r' => (r.pattern &&& r'.mask) ≠ (r'.pattern &&& r.mask)) := by decide

/-! ### WellFormed: one ill-formed term for each check -/

theorem test_wf_refuses_rsvd : CommandWord.wf 0x0000000000000101 = false := by decide
theorem test_wf_refuses_opcode_low : CommandWord.wf 0x00 = false := by decide
theorem test_wf_refuses_opcode_high : CommandWord.wf 0x0B = false := by decide
theorem test_wf_accepts_first_and_last : CommandWord.wf 0x01 = true ∧ CommandWord.wf 0x0A = true := by decide
theorem test_wf_refuses_label : HostProgram.wf [.bset 7 0x1 2, .halt] = false := by decide
theorem test_wf_accepts_wait_loop : HostProgram.wf (pseudoWait 0 ++ [.halt]) = true := by decide

/-! ### The commands: vectors of 95_test_vectors.md, each one step from an issued state -/

/-- A state right after the issue of `i` with these operands and the reset key, the Engine's turn next. -/
def issued (i : Instr) (a b c : Word) : State :=
  { State.reset with operands := { opa := a, opb := b, opc := c } }.issuedNext (encode i)

/-- As `issued`, with a key. -/
def issuedKey (i : Instr) (a b : Word) (p q e : KeyWord) : State :=
  { State.reset with
    operands := { opa := a, opb := b, opc := 0 }
    key := { kp := p, kq := q, ke := e } }.issuedNext (encode i)

/-- The four results and STATUS after one step. -/
def outcome (s : State) : Option (List Word) :=
  match step s with
  | .next t => some [t.results.res0, t.results.res1, t.results.res2, t.results.res3, readReg .status t]
  | .fault _ => none
  | .refused _ => none

/-- V-CODEDEC-2 -/
theorem test_codedec_alphabet :
    outcome (issued .codedec 0x463256374B504439 0x4A38584836545233 0) =
      some [0x0123456789ABCDEF, 0, 0, 0, 0x010002] := by decide

/-- V-CODEDEC-8: lowercase is rejected. -/
theorem test_codedec_lowercase :
    outcome (issued .codedec 0x39706633726B3337 0x7239326B686B7670 0) = some [0, 0, 0, 0, 0x010406] := by decide

/-- V-MUL-8 -/
theorem test_mul_mixed :
    outcome (issued .mul 0x0123456789ABCDEF 0xFEDCBA9876543210 0) =
      some [0x2236D88FE5618CF0, 0x0121FA00AD77D742, 0, 0, 0x020002] := by decide

/-- V-MULMOD-7: a 128-bit product reduced modulo n. -/
theorem test_mulmod_full_product :
    outcome (issued .mulmod 0xFFFFFFFFFFFFFFFF 0xFFFFFFFFFFFFFFFF 0x89843C30038891D5) =
      some [0x5A69F0957F12DFA6, 0, 0, 0, 0x030002] := by decide

/-- V-MULMOD-3 -/
theorem test_mulmod_zero : outcome (issued .mulmod 5 7 0) = some [0, 0, 0, 0, 0x030206] := by decide

/-- V-MODPOW-7 -/
theorem test_modpow_encrypt :
    outcome (issued .modpow 0x0123456789ABCDEF 0x29 0x89843C30038891D5) =
      some [0x4BB59A4FE21E3A30, 0, 0, 0, 0x040002] := by decide

/-- V-MODPOW-4: 0^0 = 1. -/
theorem test_modpow_zero_zero : outcome (issued .modpow 0 0 5) = some [1, 0, 0, 0, 0x040002] := by decide

/-- V-EXTGCD-5: x = -9, y = 47, g = 2. -/
theorem test_extgcd_negative :
    outcome (issued .extgcd 0xF0 0x2E 0) = some [0xFFFFFFFFFFFFFFF7, 0x2F, 2, 0, 0x050002] := by decide

/-- V-EXTGCD-8 -/
theorem test_extgcd_key :
    outcome (issued .extgcd 0xD34B6937 0xA69CB353 0) =
      some [0xFFFFFFFFC468C92E, 0x4B926585, 1, 0, 0x050002] := by decide

/-- V-MODINV-12: a negative coefficient is normalised. -/
theorem test_modinv_normalised : outcome (issued .modinv 0xF0 0x2F 0) = some [0x13, 0, 0, 0, 0x060002] := by decide

/-- V-MODINV-5 -/
theorem test_modinv_gcd : outcome (issued .modinv 2 4 0) = some [0, 0, 0, 0, 0x060306] := by decide

/-- V-KEY-1 -/
theorem test_keyderive_reset_key :
    outcome (issued .keyderive 0 0 0) =
      some [0x283FADB634C4D129, 0x38E45635, 0x19C48377, 0x6B057C81, 0x070002] := by decide

/-- V-KEY-10: KEY_INVALID is tried before NO_MODINV. -/
theorem test_keyderive_order :
    outcome (issuedKey .keyderive 0 0 0 0 2) = some [0, 0, 0, 0, 0x070506] := by decide

/-- V-CRT-9: m2 > m1 + p, the input class of 44_crt.md R147. -/
theorem test_crtdec_negative_dividend :
    outcome (issued .crtdec 0x91B7584A2265B1F5 0 0) =
      some [0x7C07E301622F846D, 0xA6BAA5, 0xCB85A055, 0x9645E8A8, 0x080002] := by decide

/-- V-CRT-14: dp = 0. -/
theorem test_crtdec_degenerate :
    outcome (issuedKey .crtdec 0 0 2 3 1) = some [3, 1, 0, 1, 0x080002] := by decide

/-- V-PWENC-6 -/
theorem test_pwenc_fields :
    outcome (issued .pwenc 0x00FAC688 0 0) = some [0x3437353932383336, 0, 0, 0, 0x090002] := by decide

/-- V-PWENC-10: bits [63:32] are not read. -/
theorem test_pwenc_high_half :
    outcome (issued .pwenc 0xFFFFFFFF00000000 0 0) = some [0x3434343434343434, 0, 0, 0, 0x090002] := by decide

/-- V-DPW-1: the source's end-to-end example. -/
theorem test_decodepw_example :
    outcome (issued .decodepw 0x39504633524B3337 0x5239324B484B5650 0) =
      some [0x3432363939373233, 0x48398720253C3609, 0x67D978BEE9D0B7E0, 0, 0x0A0002] := by decide

/-- V-DPW-8: INVALID_SYMBOL before KEY_INVALID. -/
theorem test_decodepw_order :
    outcome (issuedKey .decodepw 0x39504633524B3337 0x5261324B484B5650 0 0 41) =
      some [0, 0, 0, 0, 0x0A0406] := by decide

/-- V-ILL-4: an illegal word completes with ILLEGAL_COMMAND and LASTOP 0x04. -/
theorem test_illegal_word :
    outcome (State.reset.withFetchWord 64 0x104) = some [0, 0, 0, 0, 0x040106] := by decide

/-! ### Registers, STATUS, the interrupt, the bus -/

/-- V-REG-4, V-REG-5, V-REG-6, V-REG-2, V-REG-7 -/
theorem test_register_writes :
    readReg .kp (writeReg .kp 0xFFFFFFFF00000005 State.reset) = 5 ∧
      readReg .ctrl (writeReg .ctrl 0xFFFFFFFFFFFFFFFF State.reset) = 1 ∧
      readReg .status (writeReg .status 0xFFFFFFFFFFFFFFFF State.reset) = 0 ∧
      readReg .id (writeReg .id 0xFFFFFFFFFFFFFFFF State.reset) = 0x4D45584500070001 ∧
      readReg .res0 (writeReg .res0 0x1234 State.reset) = 0 := by decide

/-- V-REG-11 and V-REG-14: STATUS while BUSY, and the overrun. -/
theorem test_issue_and_overrun :
    readReg .status (writeReg .cmd 0x02 State.reset) = 0x020001 ∧
      readReg .status (writeReg .cmd 0x02 (writeReg .cmd 0x02 State.reset)) = 0x020009 := by decide

/-- V-REG-15 and V-REG-16: clearing OVERRUN, then DONE. -/
theorem test_status_clear :
    let s := { State.reset with status := { done := true, err := false, overrun := true, errcode := 0, lastop := 2 } }
    readReg .status (writeReg .status 0x8 s) = 0x020002 ∧
      readReg .status (writeReg .status 0x2 (writeReg .status 0x8 s)) = 0x020000 := by decide

/-- V-REG-17 to V-REG-19: irq after a completion, masked by IE, lowered by an issue. -/
theorem test_irq :
    let s := { State.reset with ie := true }.complete { res0 := 15, res1 := 0, res2 := 0, res3 := 0 }
    s.irq = true ∧ (writeReg .ctrl 0 s).irq = false ∧ (writeReg .cmd 0x02 s).irq = false := by decide

/-- The address BASE_ADDR + off, width and kind of an access. -/
def at' (off width : Nat) (k : AccessKind) : Access := { addr := Config.baseAddr + off, width := width, kind := k }

/-- V-REG-8 to V-REG-10: reserved, misaligned and narrow accesses. -/
theorem test_bus_errors (s : State) :
    busAccess (at' 0x70 8 .read) s = (.error, s) ∧ busAccess (at' 0xF8 8 .read) s = (.error, s) ∧
      busAccess (at' 0x0C 8 .read) s = (.error, s) ∧ busAccess (at' 0x10 4 .read) s = (.error, s) := by
  refine ⟨?_, ?_, ?_, ?_⟩ <;> simp only [busAccess, at'] <;> rw [windowOffset_base (by decide)] <;> rfl

/-- A legal access through the step: `W 0x20 data`, `R 0x00`. -/
theorem test_bus_accesses :
    step { State.reset with schedule := [.access (Access.ofWrite .opa 7)] } =
        .next { State.reset with operands := { opa := 7, opb := 0, opc := 0 }, response := .ack } ∧
      step { State.reset with schedule := [.access (Access.ofRead .id)] } =
        .next { State.reset with response := .data 0x4D45584500070001 } :=
  ⟨(step_scheduled (tn := .access (Access.ofWrite .opa 7)) (rest := []) rfl).trans (accessStep_ofWrite .opa 7 _),
    (step_scheduled (tn := .access (Access.ofRead .id)) (rest := []) rfl).trans (accessStep_ofRead .id _)⟩

/-- 30_encoding.md R89: `li OPA, "73KR3FP9"` and the bytes of `run DECODEPW` at index 2. -/
theorem test_pseudo_instructions :
    pseudoLi .opa ['7', '3', 'K', 'R', '3', 'F', 'P', '9'] = [.wrImm .opa 0x39504633524B3337] ∧
      pseudoRun 2 .decodepw = [.wrImm .cmd 0x0A, .rd .status 7, .bset 7 0x1 3] ∧
      pseudoAck = [.wrImm .status 0xE] := by decide

/-- 30_encoding.md R88: `bset t7, 0x1, 0` branches while bit 0 of t7 is set and falls through when it is not. -/
theorem test_host_bset :
    let h : HostAgent := { temps := Vector.replicate 8 0x000A0001, program := [.halt, .bset 7 0x1 0], pos := 1 }
    (hostAdvance h (.bset 7 0x1 0) 0).pos = 0 ∧ (hostAdvance h (.bset 7 0x2 0) 0).pos = 2 := by decide

/-- 30_encoding.md R88: `rd ID, t3` at reset, as the Host agent's step. -/
theorem test_host_rd :
    ∃ t, hostStep { State.reset with host := { State.reset.host with program := [.rd .id 3] } } = .next t ∧
      t.host.temps[3] = 0x4D45584500070001 ∧ t.host.temps[7] = 0 ∧ t.host.pos = 1 := by
  refine ⟨_, hostStep_access (i := .rd .id 3) (a := Access.ofRead .id) rfl rfl (accessStep_ofRead .id _), ?_⟩
  decide

/-- 10_state.md R42, R43: the codes of the two alphabets. -/
theorem test_alphabets :
    codeAlphabet =
        [0x39, 0x44, 0x50, 0x4B, 0x37, 0x56, 0x32, 0x46, 0x33, 0x52, 0x54, 0x36, 0x48, 0x58, 0x38, 0x4A] ∧
      pwAlphabet = [0x34, 0x37, 0x35, 0x39, 0x32, 0x38, 0x33, 0x36] ∧
      codeLut 0x61 = { valid := false, index := 0 } := by decide

/-! ### Witnesses: states and operands that meet the hypotheses of the obligations -/

/-- A busy state of the invariant whose command is legal, and one whose word is not. -/
def busyState (w : Word) : State := State.reset.issue w

theorem witness_StepKeepsTheInvariant : State.reset.Inv ∧ step State.reset = .next State.reset :=
  ⟨⟨by decide, by decide, by decide, by decide, by decide⟩, rfl⟩

theorem reach (off : Nat) (h : off < 0x100) (width : Nat) (k : AccessKind) :
    (at' off width k).InWindow ∧ (at' off width k).off = off :=
  ⟨⟨Nat.le_add_right _ _, Nat.add_lt_add_left h _⟩, Nat.add_sub_cancel_left ..⟩

/-- Narrow, misaligned, and the two ends of the reserved range. -/
theorem witness_IllegalAccessIsABusError :
    ((at' 0x10 4 .read).InWindow ∧ (at' 0x10 4 .read).width ≠ 8) ∧
      ((at' 0x0C 8 .read).InWindow ∧ (at' 0x0C 8 .read).off % 8 ≠ 0) ∧
      ((at' 0x70 8 .read).InWindow ∧ 0x70 ≤ (at' 0x70 8 .read).off ∧ (at' 0x70 8 .read).off ≤ 0xF8) ∧
      ((at' 0xF8 8 .read).InWindow ∧ 0x70 ≤ (at' 0xF8 8 .read).off ∧ (at' 0xF8 8 .read).off ≤ 0xF8) := by
  refine ⟨⟨(reach _ (by decide) _ _).1, by decide⟩, ⟨(reach _ (by decide) _ _).1, ?_⟩,
    ⟨(reach _ (by decide) _ _).1, ?_⟩, ⟨(reach _ (by decide) _ _).1, ?_⟩⟩ <;>
    rw [(reach _ (by decide) _ _).2] <;> decide

/-- The first address past the window. -/
theorem witness_AccessOutsideTheWindowChangesNothing : ¬ (at' 0x100 8 .read).InWindow :=
  fun h => Nat.lt_irrefl _ h.2

theorem witness_WritesAreIdempotentExceptCmd :
    Reg.opa ≠ Reg.cmd ∧ State.reset.engine.busy = false ∧ State.reset.status.overrun = false := by decide

/-- Both values of each bit that clears, an idle and a busy state. -/
theorem witness_DoneFollowsIssueCompletionAndClear :
    State.reset.engine.busy = false ∧ (busyState 0x02).engine.busy = true ∧ (0x2 : Word).getLsbD 1 = true ∧
      (0xD : Word).getLsbD 1 = false := by decide

/-- Issued states of the invariant whose completion is an error (MULMOD of modulus 0) and a success (MUL), both values
of the bit that clears, and a step from a state of the invariant. -/
theorem witness_ErrFollowsIssueCompletionAndClear :
    State.reset.engine.busy = false ∧
      ((busyState 0x03).Inv ∧ (busyState 0x03).engine.busy = true ∧
        engineStep (busyState 0x03) = .next ((busyState 0x03).raise .badModulus)) ∧
      ((busyState 0x02).Inv ∧ (busyState 0x02).engine.busy = true ∧
        engineStep (busyState 0x02) = .next ((busyState 0x02).complete { res0 := 0, res1 := 0, res2 := 0, res3 := 0 })) ∧
      (0x4 : Word).getLsbD 2 = true ∧ (0xB : Word).getLsbD 2 = false ∧
      (State.reset.Inv ∧ step State.reset = .next State.reset ∧ State.reset.status.err = false) :=
  ⟨rfl, ⟨⟨by decide, by decide, by decide, by decide, by decide⟩, rfl, rfl⟩,
    ⟨⟨by decide, by decide, by decide, by decide, by decide⟩, rfl, rfl⟩, by decide, by decide,
    ⟨by decide, by decide, by decide, by decide, by decide⟩, rfl, rfl⟩

/-- A dropped CMD write through the step. -/
theorem witness_OverrunIsSetOnlyByADroppedCommand :
    (∃ t, step { busyState 0x02 with schedule := [.access (Access.ofWrite .cmd 0x02)] } = .next t ∧
      (busyState 0x02).status.overrun = false ∧ t.status.overrun = true) ∧
      State.reset.engine.busy = false ∧ (0x8 : Word).getLsbD 3 = true :=
  ⟨⟨_, (step_scheduled (tn := .access (Access.ofWrite .cmd 0x02)) (rest := []) rfl).trans
    (accessStep_ofWrite .cmd 0x02 _), rfl, rfl⟩, rfl, by decide⟩

theorem witness_InterruptFollowsCompletionAndEnable :
    (busyState 0x02).engine.busy = true ∧ State.reset.engine.busy = false ∧
      (busAccess (at' 0x70 8 .read) State.reset).1 = .error :=
  ⟨rfl, rfl, by rw [(test_bus_errors State.reset).1]⟩

theorem witness_CmdWriteIssuesOrOverruns :
    (busyState 0x02).engine.busy = true ∧ State.reset.engine.busy = false := by decide

theorem witness_LastopRecordsTheIssuedByte :
    (busyState 0x02).engine.busy = true ∧ State.reset.engine.busy = false ∧ Reg.ctrl ≠ Reg.cmd := by decide

theorem witness_StepRunsTheDecodedCommand :
    (busyState 0x0A).engine.busy = true ∧ decode (busyState 0x0A).engine.cmd = .ok .decodepw ∧
      { busyState 0x0A with schedule := [.engine, .host] }.schedule = .engine :: [.host] ∧
      (busyState 0x0A).schedule = [] := by decide

/-- The two ends of the reserved opcodes, and a reserved bit with a legal opcode. -/
theorem witness_IllegalWordCompletesWithIllegalCommand :
    ((busyState 0x00).engine.busy = true ∧ (busyState 0x00).engine.cmd.extractLsb' 0 8 = 0x00#8) ∧
      ((busyState 0x0B).engine.busy = true ∧ 0x0B#8 ≤ (busyState 0x0B).engine.cmd.extractLsb' 0 8) ∧
      ((busyState 0xFF).engine.busy = true ∧ 0x0B#8 ≤ (busyState 0xFF).engine.cmd.extractLsb' 0 8) ∧
      ((busyState 0x104).engine.busy = true ∧ (busyState 0x104).engine.cmd.extractLsb' 8 56 ≠ 0#56) := by decide

/-- Two different states with one latch. -/
theorem witness_CommandsAreFunctionsOfTheLatch :
    (busyState 0x02).engine.latch = (writeReg .opa 7 (busyState 0x02)).engine.latch ∧
      busyState 0x02 ≠ writeReg .opa 7 (busyState 0x02) := by decide

theorem witness_WritesAfterIssueAffectOnlyLaterCommands :
    (busyState 0x02).engine.busy = true ∧ Reg.opa ∈ [Reg.opa, .opb, .opc, .kp, .kq, .ke] := by decide

/-- A completion that changes RES0: PWENC of 0. -/
theorem witness_ResultsChangeOnlyAtCompletionOrReset :
    ∃ t, step (busyState 0x09) = .next t ∧ t.results ≠ (busyState 0x09).results := ⟨_, rfl, by decide⟩

/-- A Host agent at `i`. -/
def atHost (i : HostInstr) : State := { State.reset with host := { State.reset.host with program := [i] } }

/-- The Host agent's own step is the machine's when nothing is scheduled and the Engine is idle. -/
theorem step_atHost (i : HostInstr) : step (atHost i) = hostStep (atHost i) := by cases i <;> rfl

/-- The Host agent's `wr` of a register by name, from reset. -/
theorem step_atHost_write {i : HostInstr} {r : Reg} {v : Word}
    (ht : hostTransaction (atHost i).host i = some (Access.ofWrite r v)) :
    ∃ ag, step (atHost i) = .next { writeReg r v (atHost i) with response := .ack, host := ag } :=
  ⟨_, (step_atHost i).trans (hostStep_access rfl ht (accessStep_ofWrite r v _))⟩

/-- Steps that make the Engine busy, by a scheduled access and by each `wr CMD` of the Host, and one that makes it
idle. -/
theorem witness_OnlyIssueAndCompletionMoveTheEngine :
    (∃ t, step { State.reset with schedule := [.access (Access.ofWrite .cmd 0x02)] } = .next t ∧
      State.reset.engine.busy = false ∧ t.engine.busy = true) ∧
      (∃ t, step (atHost (.wrImm .cmd 0x02)) = .next t ∧ (atHost (.wrImm .cmd 0x02)).engine.busy = false ∧
        t.engine.busy = true) ∧
      (∃ t, step (atHost (.wrTemp .cmd 3)) = .next t ∧ (atHost (.wrTemp .cmd 3)).engine.busy = false ∧
        t.engine.busy = true) ∧
      ∃ t, step (busyState 0x02) = .next t ∧ (busyState 0x02).engine.busy = true ∧ t.engine.busy = false := by
  refine ⟨⟨_, (step_scheduled (tn := .access (Access.ofWrite .cmd 0x02)) (rest := []) rfl).trans
    (accessStep_ofWrite .cmd 0x02 _), rfl, rfl⟩, ?_, ?_, ⟨_, rfl, rfl, rfl⟩⟩
  · obtain ⟨ag, h⟩ := step_atHost_write (i := .wrImm .cmd 0x02) (r := .cmd) (v := 0x02) rfl
    exact ⟨_, h, rfl, rfl⟩
  · obtain ⟨ag, h⟩ := step_atHost_write (i := .wrTemp .cmd 3) (r := .cmd) (v := 0) rfl
    exact ⟨_, h, rfl, rfl⟩

/-- Nothing left to run; a completion, a Host write, and a reset that change the block. -/
theorem witness_IdleBlockKeepsItsState :
    (State.reset.schedule = [] ∧ State.reset.engine.busy = false ∧ hostRunning State.reset.host = false) ∧
      (∃ t, step (busyState 0x09) = .next t ∧ ¬ SameBlock (busyState 0x09) t) ∧
      (∃ t, step (atHost (.wrImm .ctrl 1)) = .next t ∧ ¬ SameBlock (atHost (.wrImm .ctrl 1)) t) ∧
      (∃ t, step { State.reset with ie := true, schedule := [.reset] } = .next t ∧
        ¬ SameBlock { State.reset with ie := true, schedule := [.reset] } t) := by
  refine ⟨⟨rfl, rfl, rfl⟩, ⟨_, rfl, fun h => absurd h.2.2.2.2.2 (by decide)⟩, ?_,
    ⟨_, rfl, fun h => absurd h.1 (by decide)⟩⟩
  obtain ⟨ag, h⟩ := step_atHost_write (i := .wrImm .ctrl 1) (r := .ctrl) (v := 1) rfl
  exact ⟨_, h, fun hs => absurd hs.1 (show ¬ (true = false) by decide)⟩

theorem witness_HostInstructionsActAsTabled :
    hostInstr (atHost (.wrImm .opa 1)).host = some (.wrImm .opa 1) ∧
      hostInstr (atHost (.wrTemp .opa 7)).host = some (.wrTemp .opa 7) ∧
      hostInstr (atHost (.rd .id 0)).host = some (.rd .id 0) ∧
      hostInstr (atHost (.bset 7 1 0)).host = some (.bset 7 1 0) ∧
      hostInstr (atHost .halt).host = some .halt := by decide

/-- The code of V-CODEDEC-2 is valid. -/
theorem witness_CodedecReadsTheCodeAsHexDigits :
    ValidCode (issued .codedec 0x463256374B504439 0x4A38584836545233 0).engine.latch.operands.opa
      (issued .codedec 0x463256374B504439 0x4A38584836545233 0).engine.latch.operands.opb := by
  unfold ValidCode; decide

/-- An invalid first byte and an invalid last byte (V-CODEDEC-10). -/
theorem witness_CodedecRejectsEveryInvalidSymbol :
    ((0x00#8 : Byte) ∉ codeAlphabet ∧
      (0x00#8 : Byte) ∈ bytesOf (issued .codedec 0x3939393939393900 0x3939393939393939 0).engine.latch.operands.opa ++
        bytesOf (issued .codedec 0x3939393939393900 0x3939393939393939 0).engine.latch.operands.opb) ∧
      (0x00#8 : Byte) ∈ bytesOf (issued .codedec 0x3939393939393939 0x0039393939393939 0).engine.latch.operands.opa ++
        bytesOf (issued .codedec 0x3939393939393939 0x0039393939393939 0).engine.latch.operands.opb := by decide

theorem witness_MulmodReducesTheFullProduct :
    (issued .mulmod 5 7 1).c ≠ 0 ∧ (issued .mulmod 5 7 0).c = 0 := by decide

theorem witness_ModpowComputesThePower : 2 ≤ (issued .modpow 0 0 2).c := by decide

theorem witness_ModpowOfModulusOneAndZero :
    (issued .modpow 5 0 1).c = 1 ∧ (issued .modpow 2 10 0).c = 0 := by decide

theorem witness_ExtGcdFollowsItsRecursion : (1 : Nat) ≠ 0 := by decide

theorem witness_ModinvInvertsOrFails :
    ((issued .modinv 0 1 0).b ≠ 0 ∧ Nat.gcd (issued .modinv 0 1 0).a (issued .modinv 0 1 0).b = 1) ∧
      ((issued .modinv 3 7 0).b ≠ 0 ∧ Nat.gcd (issued .modinv 3 7 0).a (issued .modinv 3 7 0).b = 1) ∧
      (issued .modinv 5 0 0).b = 0 ∧
      ((issued .modinv 2 4 0).b ≠ 0 ∧ Nat.gcd (issued .modinv 2 4 0).a (issued .modinv 2 4 0).b ≠ 1) := by decide

/-- A key that derives (V-KEY-6), p at the bound (V-KEY-8), p below 2, q below 2, e = 2, and p = q. -/
theorem witness_KeyderiveDerivesTheKeyOrFails :
    KeyDerives (issuedKey .keyderive 0 0 5 11 3).p (issuedKey .keyderive 0 0 5 11 3).q
        (issuedKey .keyderive 0 0 5 11 3).e ∧
      KeyDerives (issuedKey .keyderive 0 0 2 3 1).p (issuedKey .keyderive 0 0 2 3 1).q
        (issuedKey .keyderive 0 0 2 3 1).e ∧
      (issuedKey .keyderive 0 0 1 5 3).p < 2 ∧ (issuedKey .keyderive 0 0 5 0 3).q < 2 ∧
      (2 ≤ 5 ∧ 2 ≤ 11 ∧ Nat.gcd 2 ((5 - 1) * (11 - 1)) ≠ 1) ∧ (2 ≤ 2 ∧ Nat.gcd 2 2 ≠ 1) := by
  unfold KeyDerives; decide

theorem witness_ResetKeyIsAsTabled :
    (issued .keyderive 0 0 0).engine.latch.key = { kp := 2795287379#32, kq := 3544934711#32, ke := 41#32 } := by decide

theorem witness_CrtdecRecombinesTheResidues :
    KeyDerives (issuedKey .crtdec 2 0 5 11 3).p (issuedKey .crtdec 2 0 5 11 3).q (issuedKey .crtdec 2 0 5 11 3).e ∧
      (issuedKey .crtdec 2 0 1 11 3).p < 2 ∧ (issuedKey .crtdec 2 0 5 1 3).q < 2 ∧
      (2 ≤ (issuedKey .crtdec 2 0 5 11 2).p ∧ 2 ≤ (issuedKey .crtdec 2 0 5 11 2).q ∧
        Nat.gcd (issuedKey .crtdec 2 0 5 11 2).e
          (((issuedKey .crtdec 2 0 5 11 2).p - 1) * ((issuedKey .crtdec 2 0 5 11 2).q - 1)) ≠ 1) ∧
      (2 ≤ (issuedKey .crtdec 2 0 5 5 3).p ∧
        Nat.gcd (issuedKey .crtdec 2 0 5 5 3).q (issuedKey .crtdec 2 0 5 5 3).p ≠ 1) := by
  unfold KeyDerives; decide

/-- The small key of V-KEY-6: primes 5 and 11, e = 3, (d, dp, dq, qinv) = (27, 3, 7, 1). -/
theorem witness_CrtdecIsRsaDecryption :
    Nat.Prime (issuedKey .crtdec 2 0 5 11 3).p ∧ Nat.Prime (issuedKey .crtdec 2 0 5 11 3).q ∧
      (issuedKey .crtdec 2 0 5 11 3).p ≠ (issuedKey .crtdec 2 0 5 11 3).q ∧
      keyDerive (issuedKey .crtdec 2 0 5 11 3).p (issuedKey .crtdec 2 0 5 11 3).q (issuedKey .crtdec 2 0 5 11 3).e =
        .ok { d := 27, dp := 3, dq := 7, qinv := 1 } ∧ 1 ≤ 3 ∧ 1 ≤ 7 :=
  ⟨show Nat.Prime 5 by decide, show Nat.Prime 11 by decide, by decide, by rfl, by decide, by decide⟩

/-- V-RT-5: the largest plaintext, n - 1. -/
theorem witness_ResetKeyRoundTrip :
    (issued .modpow 0x89843C30038891D4 41 0x89843C30038891D5).a < 0x89843C30038891D5 ∧
      (issued .modpow 0x89843C30038891D4 41 0x89843C30038891D5).b = 41 ∧
      (issued .modpow 0x89843C30038891D4 41 0x89843C30038891D5).c = 0x89843C30038891D5 ∧
      (issued .crtdec 0x89843C30038891D4 0 0).engine.latch.key =
        { kp := 2795287379#32, kq := 3544934711#32, ke := 41#32 } := by decide

/-- PWENC, and DECODEPW of sixteen '9' symbols, from issued states. -/
theorem witness_PasswordCharactersAreInTheAlphabet :
    (∃ t, exec .pwenc (issued .pwenc 0 0 0) = .next t ∧ (issued .pwenc 0 0 0).status.err = false ∧
      t.status.err = false) ∧
      ∃ t, exec .decodepw (issued .decodepw 0x3939393939393939 0x3939393939393939 0) = .next t ∧
        (issued .decodepw 0x3939393939393939 0x3939393939393939 0).status.err = false ∧ t.status.err = false :=
  ⟨⟨_, rfl, rfl, rfl⟩, ⟨_, rfl, rfl, by decide⟩⟩

theorem witness_DecodepwRunsTheWholePipeline :
    ValidCode (issuedKey .decodepw 0x463256374B504439 0x4A38584836545233 5 11 3).engine.latch.operands.opa
        (issuedKey .decodepw 0x463256374B504439 0x4A38584836545233 5 11 3).engine.latch.operands.opb ∧
      KeyDerives (issuedKey .decodepw 0x463256374B504439 0x4A38584836545233 5 11 3).p
        (issuedKey .decodepw 0x463256374B504439 0x4A38584836545233 5 11 3).q
        (issuedKey .decodepw 0x463256374B504439 0x4A38584836545233 5 11 3).e := by
  unfold ValidCode KeyDerives; decide

/-- An invalid code (V-DPW-5), and a valid one with a key that is invalid or underivable (V-DPW-7, V-DPW-9). -/
theorem witness_DecodepwFailsInStageOrder :
    ¬ ValidCode 0x4444434342424141 0x3131303046464545 ∧ ValidCode 0x39504633524B3337 0x5239324B484B5650 ∧
      (issuedKey .decodepw 0x39504633524B3337 0x5239324B484B5650 1 5 41).p < 2 ∧
      (2 ≤ (issuedKey .decodepw 0x39504633524B3337 0x5239324B484B5650 5 5 41).p ∧
        Nat.gcd (issuedKey .decodepw 0x39504633524B3337 0x5239324B484B5650 5 5 41).q
          (issuedKey .decodepw 0x39504633524B3337 0x5239324B484B5650 5 5 41).p ≠ 1) := by
  unfold ValidCode; decide

/-- The chain on sixteen '9' symbols: C = 0, M = 0 (V-CODEDEC-3, V-CRT-1). -/
theorem witness_DecodepwEqualsTheThreeCommands :
    ∃ t1 t2 t3,
      (issued .codedec 0x3939393939393939 0x3939393939393939 0).status.err = false ∧
        exec .codedec (issued .codedec 0x3939393939393939 0x3939393939393939 0) = .next t1 ∧ t1.status.err = false ∧
        (issued .crtdec 0 0 0).engine.latch.operands.opa = t1.results.res0 ∧
        (issued .crtdec 0 0 0).engine.latch.key =
          (issued .codedec 0x3939393939393939 0x3939393939393939 0).engine.latch.key ∧
        exec .crtdec (issued .crtdec 0 0 0) = .next t2 ∧ t2.status.err = false ∧
        (issued .pwenc 0 0 0).engine.latch.operands.opa = t2.results.res0 ∧
        exec .pwenc (issued .pwenc 0 0 0) = .next t3 :=
  ⟨_, _, _, rfl, rfl, by decide, by decide, by decide, rfl, by decide, by decide, rfl⟩

end Sys2Proof.Tests
end

namespace Sys2Proof.Machine

/-- A command succeeds with the results its pseudocode computes on the latch (60_exceptions.md R181). -/
theorem succeeds_of_runOf_eq_ok {i : Instr} {s : State} {r : ResultRegs} (h : runOf i s.engine.latch = .ok r) :
    Succeeds i s r := by
  unfold Succeeds
  rw [exec_eq_finish, h, finish_ok, State.complete]

/-- A command fails with the error its pseudocode raises on the latch (60_exceptions.md R182). -/
theorem failsWith_of_runOf_eq_error {i : Instr} {s : State} {e : CmdError}
    (h : runOf i s.engine.latch = .error e) : FailsWith i s e := by
  unfold FailsWith
  rw [exec_eq_finish, h, finish_error, State.raise]

/-- Settles O25: both states run the command's pseudocode on the one latch, so its outcome there is the outcome in
both. -/
theorem commandsAreFunctionsOfTheLatch : Obligations.CommandsAreFunctionsOfTheLatch := by
  intro i s s' hlatch
  cases hrun : runOf i s.engine.latch with
  | ok r => exact .inl ⟨r, succeeds_of_runOf_eq_ok hrun, succeeds_of_runOf_eq_ok (hlatch ▸ hrun)⟩
  | error e => exact .inr ⟨e, failsWith_of_runOf_eq_error hrun, failsWith_of_runOf_eq_error (hlatch ▸ hrun)⟩

end Sys2Proof.Machine

namespace Sys2Proof.Machine

/-! ### The block's part of a state -/

theorem SameBlock.refl (s : State) : SameBlock s s := ⟨rfl, rfl, rfl, rfl, rfl, rfl⟩

section sameBlock
variable {s t : State} (h : SameBlock s t)
include h

theorem SameBlock.status_eq : t.status = s.status := h.2.1

theorem SameBlock.results_eq : t.results = s.results := h.2.2.2.2.1

theorem SameBlock.engine_eq : t.engine = s.engine := h.2.2.2.2.2

/-- The invariant speaks of the block only. -/
theorem State.Inv.of_sameBlock (hs : s.Inv) : t.Inv := by
  obtain ⟨hknown, herr, hbusy, hzero, hlast⟩ := hs
  constructor <;> simpa only [h.status_eq, h.results_eq, h.engine_eq]

end sameBlock

/-! ### What a register write does -/

section writeReg
variable {s : State} {v : Word} {r r' : Reg}

/-- A CMD write to a busy Engine is dropped (60_exceptions.md R180). -/
theorem writeReg_cmd_of_busy (hb : s.engine.busy = true) :
    writeReg .cmd v s = { s with status := { s.status with overrun := true } } := if_pos hb

/-- A CMD write to an idle Engine is an issue (60_exceptions.md R180). -/
theorem writeReg_cmd_of_idle (hb : s.engine.busy = false) : writeReg .cmd v s = s.issue v :=
  if_neg (by simp [hb])

@[simp] theorem writeReg_status_eq : writeReg .status v s = s.writeStatus v := rfl

/-- Only a CMD write reaches the Engine. -/
theorem writeReg_engine_of_ne_cmd (hr : r ≠ .cmd) : (writeReg r v s).engine = s.engine := by
  cases r
  case cmd => contradiction
  all_goals rfl

/-- Only STATUS and CMD writes reach the fields of STATUS. -/
theorem writeReg_status_of_ne (hr : r ≠ .cmd) (hs : r ≠ .status) : (writeReg r v s).status = s.status := by
  cases r
  case cmd | status => contradiction
  all_goals rfl

/-- A write to any register but STATUS and CMD shows in that register only. -/
theorem readReg_writeReg_of_ne (hr : r ≠ .cmd) (hs : r ≠ .status) (hne : r' ≠ r) :
    readReg r' (writeReg r v s) = readReg r' s := by
  cases r
  case cmd | status => contradiction
  case id | res0 | res1 | res2 | res3 => rfl
  all_goals
    revert hne
    cases r' <;> simp [readReg, writeReg, statusWord]

/-- A register write that changes the Engine is an issue of the written word (10_state.md R21). -/
theorem writeReg_engine_cases :
    (writeReg r v s).engine = s.engine ∨
      (r = .cmd ∧ s.engine.busy = false ∧ writeReg r v s = s.issue v) := by
  by_cases hr : r = .cmd
  · subst hr
    obtain ⟨-, h⟩ | ⟨hb, h⟩ := writeCmd_cases v s
    · exact .inl (by rw [writeReg, h])
    · exact .inr ⟨rfl, hb, h⟩
  · exact .inl (writeReg_engine_of_ne_cmd hr)

/-- Only a dropped CMD write raises OVERRUN (10_state.md R30). -/
theorem writeReg_overrun_cases (h : (writeReg r v s).status.overrun = true) :
    s.status.overrun = true ∨ (r = .cmd ∧ s.engine.busy = true) := by
  by_cases hr : r = .cmd
  · subst hr
    cases hb : s.engine.busy with
    | true => exact .inr ⟨rfl, rfl⟩
    | false => exact .inl (by simpa [writeReg_cmd_of_idle hb] using h)
  · refine .inl ?_
    by_cases hs : r = .status
    · subst hs
      simp only [writeReg_status_eq, State.writeStatus_overrun, Bool.and_eq_true] at h
      exact h.1
    · rwa [writeReg_status_of_ne hr hs] at h

/-- Taking the turn off the schedule does not matter to a register write. -/
theorem writeReg_popTurn : writeReg r v s.popTurn = (writeReg r v s).popTurn := by
  cases r
  case cmd =>
    cases hb : s.engine.busy with
    | true => simp only [writeReg_cmd_of_busy hb, writeReg_cmd_of_busy (s := s.popTurn) hb]; rfl
    | false => simp only [writeReg_cmd_of_idle hb, writeReg_cmd_of_idle (s := s.popTurn) hb]; rfl
  all_goals rfl

end writeReg

/-- A busy Engine completes, with results or with an error (60_exceptions.md R181, R182). -/
theorem engineStep_of_busy {s : State} (hb : s.engine.busy = true) :
    (∃ r, engineStep s = .next (s.complete r)) ∨ ∃ e, engineStep s = .next (s.raise e) := by
  obtain ⟨hi, -⟩ | ⟨-, h⟩ | ⟨-, h⟩ := engineStep_next s
  · simp [hb] at hi
  · exact .inl h
  · exact .inr h

/-- Either completion sets DONE and leaves OVERRUN (10_state.md R28, R30). -/
theorem engineStep_of_busy_status {s : State} (hb : s.engine.busy = true) :
    ∃ t, engineStep s = .next t ∧ t.status.done = true ∧ t.status.overrun = s.status.overrun := by
  obtain ⟨r, h⟩ | ⟨e, h⟩ := engineStep_of_busy hb
  · exact ⟨_, h, rfl, rfl⟩
  · exact ⟨_, h, rfl, rfl⟩

/-! ### What a step does to the block, and whose turn does it -/

/-- The next turn delivers the write of `v` to `r`: a scheduled access, or the Host agent's own `wr`
(20_memory.md R71, 30_encoding.md R88). -/
def DeliversWrite (s : State) (r : Reg) (v : Word) : Prop :=
  nextTurn s = some (.access (Access.ofWrite r v)) ∨
    (nextTurn s = some .host ∧
      (hostInstr s.host = some (.wrImm r v) ∨
        ∃ n : Fin 8, hostInstr s.host = some (.wrTemp r n) ∧ s.host.temps[n] = v))

/-- Everything a step from `s` to `t` can do to the block, each with the turn that does it. -/
inductive StepEffect (s t : State) : Prop where
  | unchanged (same : SameBlock s t)
  | write (r : Reg) (v : Word) (delivered : DeliversWrite s r v) (ack : t.response = .ack)
      (same : SameBlock (writeReg r v s) t)
  | complete (r : ResultRegs) (turn : nextTurn s = some .engine) (busy : s.engine.busy = true)
      (same : SameBlock (s.complete r) t)
  | raise (e : CmdError) (turn : nextTurn s = some .engine) (busy : s.engine.busy = true)
      (same : SameBlock (s.raise e) t)
  | reset (turn : nextTurn s = some .reset) (same : SameBlock State.reset t)

/-- The block after the acknowledged write is the written one, whatever the Host agent does then. -/
theorem sameBlock_writeReg_popTurn (r : Reg) (v : Word) (s : State) (resp : Response) (ag : HostAgent) :
    SameBlock (writeReg r v s) { writeReg r v s.popTurn with response := resp, host := ag } := by
  rw [writeReg_popTurn]
  exact SameBlock.refl _

/-- A Host turn leaves the block alone or delivers the write its instruction makes. -/
theorem stepEffect_of_hostStep {s t : State} (hn : nextTurn s = some .host)
    (h : hostStep s.popTurn = .next t) : StepEffect s t := by
  obtain ⟨ag, rfl⟩ | ⟨i, a, u, ag, hi, ht, ha, rfl⟩ := hostStep_next h
  · exact .unchanged (.refl s)
  · obtain ⟨resp, rfl⟩ | ⟨r, v, rfl, rfl⟩ := accessStep_next ha
    · exact .unchanged (.refl s)
    · refine .write r v (.inr ⟨hn, ?_⟩) rfl (sameBlock_writeReg_popTurn r v s .ack ag)
      obtain rfl | ⟨n, rfl, hv⟩ := hostTransaction_ofWrite ht
      · exact .inl hi
      · exact .inr ⟨n, hi, hv⟩

/-- A scheduled access leaves the block alone or delivers its write. -/
theorem stepEffect_of_accessStep {s t : State} {a : Access} (hn : nextTurn s = some (.access a))
    (h : accessStep a s.popTurn = .next t) : StepEffect s t := by
  obtain ⟨resp, rfl⟩ | ⟨r, v, rfl, rfl⟩ := accessStep_next h
  · exact .unchanged (.refl s)
  · exact .write r v (.inl hn) rfl (sameBlock_writeReg_popTurn r v s .ack _)

/-- The Engine's turn leaves an idle block alone and completes a busy one. -/
theorem stepEffect_of_engineStep {s t : State} (hn : nextTurn s = some .engine)
    (h : engineStep s.popTurn = .next t) : StepEffect s t := by
  obtain ⟨-, he⟩ | ⟨hb, r, he⟩ | ⟨hb, e, he⟩ := engineStep_next s.popTurn <;> cases he.symm.trans h
  · exact .unchanged (.refl s)
  · exact .complete r hn hb (.refl (s.complete r))
  · exact .raise e hn hb (.refl (s.raise e))

/-- Every step that goes on has one of the listed effects. -/
theorem step_effect {s t : State} (h : step s = .next t) : StepEffect s t := by
  obtain ⟨-, hs⟩ | ⟨tn, hn, hs⟩ := step_cases s
  · cases hs.symm.trans h
    exact .unchanged (.refl s)
  · have hrun : runTurn tn s.popTurn = .next t := hs.symm.trans h
    cases tn with
    | host => exact stepEffect_of_hostStep hn hrun
    | access a => exact stepEffect_of_accessStep hn hrun
    | engine => exact stepEffect_of_engineStep hn hrun
    | reset => cases hrun; exact .reset hn (.refl State.reset)

/-! ### The invariant -/

/-- Settles O2: ERR, DONE and the Engine are clear at reset, and LASTOP and ENG.cmd are both 0. -/
theorem resetMeetsTheInvariant : Obligations.ResetMeetsTheInvariant :=
  ⟨by decide, by decide, by decide, by decide, by decide⟩

section inv
variable {s : State}

/-- An issue clears ERR, ERRCODE and DONE, and records the low byte of its word (60_exceptions.md R180). -/
theorem State.issue_inv (v : Word) : (s.issue v).Inv where
  errcode_known := by simp
  err_iff := by simp
  busy_clear := by simp
  err_results := by simp
  lastop_cmd := rfl

/-- Any write to STATUS: ERR and ERRCODE are cleared together (10_state.md R29). -/
theorem State.Inv.writeStatus (h : s.Inv) (v : Word) : (s.writeStatus v).Inv where
  errcode_known := by
    rw [State.writeStatus_errcode]
    split
    · decide
    · exact h.errcode_known
  err_iff := by
    rw [State.writeStatus_err, State.writeStatus_errcode]
    cases v.getLsbD 2 <;> simp [h.err_iff]
  busy_clear := fun hb => by simp [h.busy_clear hb]
  err_results := fun he => h.err_results (Bool.and_eq_true_iff.mp he).1
  lastop_cmd := h.lastop_cmd

/-- A register write keeps the invariant: an overrun writes none of its fields. -/
theorem State.Inv.writeReg (h : s.Inv) (r : Reg) (v : Word) : (writeReg r v s).Inv := by
  cases r
  case status => exact h.writeStatus v
  all_goals obtain ⟨hknown, herr, hbusy, hzero, hlast⟩ := h
  case cmd =>
    obtain ⟨-, hw⟩ | ⟨-, hw⟩ := writeCmd_cases v s <;> rw [Machine.writeReg, hw]
    · exact ⟨hknown, herr, hbusy, hzero, hlast⟩
    · exact State.issue_inv v
  all_goals exact ⟨hknown, herr, hbusy, hzero, hlast⟩

/-- A successful completion of a running command: issue left ERR 0 (60_exceptions.md R181). -/
theorem State.Inv.complete (h : s.Inv) (hb : s.engine.busy = true) (r : ResultRegs) : (s.complete r).Inv where
  errcode_known := h.errcode_known
  err_iff := h.err_iff
  busy_clear := by simp
  err_results := by simp [(h.busy_clear hb).2]
  lastop_cmd := h.lastop_cmd

/-- An error completion sets ERR with a defined code, and the results to 0 (60_exceptions.md R182, R183). -/
theorem State.Inv.raise (h : s.Inv) (e : CmdError) : (s.raise e).Inv where
  errcode_known := e.code_le
  err_iff := by simp
  busy_clear := by simp
  err_results := by simp
  lastop_cmd := h.lastop_cmd

end inv

/-- Settles O3: each effect a step can have keeps the invariant. -/
theorem stepKeepsTheInvariant : Obligations.StepKeepsTheInvariant := by
  intro s t hs h
  cases step_effect h with
  | unchanged same => exact .of_sameBlock same hs
  | write r v _ _ same => exact .of_sameBlock same (hs.writeReg r v)
  | complete r _ busy same => exact .of_sameBlock same (hs.complete busy r)
  | raise e _ _ same => exact .of_sameBlock same (hs.raise e)
  | reset _ same => exact .of_sameBlock same resetMeetsTheInvariant

/-! ### Registers read what was written -/

/-- Settles O1: the reset state evaluated. -/
theorem resetLeavesTheTabledValues : Obligations.ResetLeavesTheTabledValues :=
  ⟨by decide, rfl, rfl⟩

/-- CTRL reads the one bit a write keeps (10_state.md R25). -/
theorem readReg_writeReg_ctrl (s : State) (v : Word) : readReg .ctrl (writeReg .ctrl v s) = v &&& 0x1 :=
  BitVec.and_one_eq_setWidth_ofBool_getLsbD.symm

/-- A key register reads the low half of what was written (10_state.md R33). -/
theorem keyRead_keyWrite (v : Word) : keyRead (keyWrite v) = v &&& 0xFFFFFFFF := by
  apply BitVec.eq_of_toNat_eq
  have hlt : v.toNat % 2 ^ 32 < 2 ^ 64 := (Nat.mod_lt _ (by decide)).trans (by decide)
  calc (keyRead (keyWrite v)).toNat = v.toNat % 2 ^ 32 % 2 ^ 64 := by simp [keyRead, keyWrite]
    _ = v.toNat % 2 ^ 32 := Nat.mod_eq_of_lt hlt
    _ = (v &&& 0xFFFFFFFF).toNat := (Nat.and_two_pow_sub_one_eq_mod v.toNat 32).symm

/-- Settles O10: the read of each written register, and the frame of the write. -/
theorem registerWritesReadBack : Obligations.RegisterWritesReadBack := by
  intro s v
  refine ⟨readReg_writeReg_ctrl s v, ?operands, ?keys, ?frame⟩
  case operands => simp [readReg, writeReg]
  case keys => simp [readReg, writeReg, keyRead_keyWrite]
  case frame =>
    intro r hr
    have hcmd : r ≠ .cmd := by rintro rfl; simp at hr
    have hstatus : r ≠ .status := by rintro rfl; simp at hr
    exact ⟨fun r' hne => readReg_writeReg_of_ne hcmd hstatus hne, writeReg_engine_of_ne_cmd hcmd⟩

/-- The single bits of STATUS (10_state.md R26). -/
theorem statusWord_bits (s : State) :
    (statusWord s).getLsbD 0 = s.engine.busy ∧ (statusWord s).getLsbD 1 = s.status.done ∧
      (statusWord s).getLsbD 2 = s.status.err ∧ (statusWord s).getLsbD 3 = s.status.overrun := by
  unfold statusWord
  simp only [BitVec.getLsbD_append]
  simp

/-- The byte fields of STATUS (10_state.md R26). -/
theorem statusWord_bytes (s : State) :
    (statusWord s).extractLsb' 8 8 = s.status.errcode ∧ (statusWord s).extractLsb' 16 8 = s.status.lastop := by
  unfold statusWord
  simp (disch := decide) only [BitVec.extractLsb'_append_eq_of_le]
  exact ⟨BitVec.extractLsb'_append_eq_right, BitVec.extractLsb'_append_eq_right⟩

/-- Settles O12: STATUS reads its fields in the order they are appended. -/
theorem statusReadsItsFields : Obligations.StatusReadsItsFields := by
  intro s
  obtain ⟨hbusy, hdone, herr, hoverrun⟩ := statusWord_bits s
  exact ⟨hbusy, hdone, herr, hoverrun, statusWord_bytes s⟩

/-! ### The fields of STATUS -/

/-- Settles O13: the DONE field of an issue, of the two completions, and of a STATUS write. -/
theorem doneFollowsIssueCompletionAndClear : Obligations.DoneFollowsIssueCompletionAndClear := by
  refine ⟨?issue, ?completion, ?clear, ?keep⟩
  case issue => intro s v hb; simp [writeReg_cmd_of_idle hb]
  case completion =>
    intro s hb
    obtain ⟨t, h, hdone, -⟩ := engineStep_of_busy_status hb
    exact ⟨t, h, hdone⟩
  case clear => intro s v hv; simp [hv]
  case keep => intro s v hv; simp only [writeReg_status_eq, State.writeStatus_done, hv, Bool.not_false, Bool.and_true]

/-- ERRCODE is 0 while ERR is 0, in every state of the invariant (10_state.md R29). -/
theorem State.Inv.errcode_eq_zero {s : State} (h : s.Inv) (he : s.status.err = false) : s.status.errcode = 0 := by
  by_contra hne
  exact absurd (h.err_iff.mpr hne) (by simp [he])

/-- Settles O14: ERR and ERRCODE move together; a success keeps the zeros the invariant gives a running command. -/
theorem errFollowsIssueCompletionAndClear : Obligations.ErrFollowsIssueCompletionAndClear := by
  refine ⟨?issue, ?completion, fun s e => ⟨rfl, rfl⟩, ?clear, ?keep, rfl, ?step⟩
  case issue => intro s v hb; simp [writeReg_cmd_of_idle hb]
  case completion =>
    intro s hs hb
    obtain ⟨r, h⟩ | ⟨e, h⟩ := engineStep_of_busy hb
    · have herr : s.status.err = false := (hs.busy_clear hb).2
      exact ⟨_, h, .inr ⟨r, rfl, herr, hs.errcode_eq_zero herr⟩⟩
    · exact ⟨_, h, .inl ⟨e, rfl, rfl, rfl⟩⟩
  case clear => intro s v hv; simp [hv]
  case keep => intro s v hv; simp only [writeReg_status_eq, State.writeStatus_err, State.writeStatus_errcode, hv]; simp
  case step => intro s t hs h; exact (stepKeepsTheInvariant s t hs h).errcode_eq_zero

/-- A step that raises OVERRUN is the delivery of a CMD write to a busy Engine (10_state.md R30). -/
theorem step_raises_overrun {s t : State} (h : step s = .next t) (hs : s.status.overrun = false)
    (ht : t.status.overrun = true) :
    s.engine.busy = true ∧ t.response = .ack ∧ ∃ v, DeliversWrite s .cmd v := by
  cases step_effect h with
  | unchanged same => simp [same.status_eq, hs] at ht
  | write r v delivered ack same =>
    rw [same.status_eq] at ht
    obtain hold | ⟨rfl, hb⟩ := writeReg_overrun_cases ht
    · simp [hs] at hold
    · exact ⟨hb, ack, v, delivered⟩
  | complete r _ _ same => simp [same.status_eq, hs] at ht
  | raise e _ _ same => simp [same.status_eq, hs] at ht
  | reset _ same => simp [same.status_eq, State.reset] at ht

/-- Settles O15: OVERRUN of each CMD and STATUS write, and of every step. -/
theorem overrunIsSetOnlyByADroppedCommand : Obligations.OverrunIsSetOnlyByADroppedCommand := by
  refine ⟨?dropped, ?issue, ?completion, ?clear, ?step⟩
  case dropped => intro s v hb; rw [writeReg_cmd_of_busy hb]
  case issue => intro s v hb; simp [writeReg_cmd_of_idle hb]
  case completion =>
    intro s hb
    obtain ⟨t, h, -, hoverrun⟩ := engineStep_of_busy_status hb
    exact ⟨t, h, hoverrun⟩
  case clear => intro s v hv; simp [hv]
  case step =>
    intro s t h hs ht
    obtain ⟨hb, hack, v, hn | ⟨hn, hi | ⟨n, hi, -⟩⟩⟩ := step_raises_overrun h hs ht
    · exact ⟨hb, hack, .inl ⟨v, hn⟩⟩
    · exact ⟨hb, hack, .inr ⟨hn, .inl ⟨v, hi⟩⟩⟩
    · exact ⟨hb, hack, .inr ⟨hn, .inr ⟨n, hi⟩⟩⟩

/-- Settles O16: LASTOP of a CMD write to an idle and to a busy Engine, and of any other write. -/
theorem lastopRecordsTheIssuedByte : Obligations.LastopRecordsTheIssuedByte := by
  intro s v
  refine ⟨?issue, ?dropped, ?other⟩
  case issue =>
    intro hb
    rw [writeReg_cmd_of_idle hb, State.issue_lastop, BitVec.setWidth_eq_extractLsb' (by decide)]
  case dropped => intro hb; rw [writeReg_cmd_of_busy hb]
  case other =>
    intro r hr
    by_cases hs : r = .status
    · subst hs; rfl
    · rw [writeReg_status_of_ne hr hs]

/-! ### Who moves the results and the Engine -/

/-- Settles O27: of the effects of a step only the completions and the reset write a result. -/
theorem resultsChangeOnlyAtCompletionOrReset : Obligations.ResultsChangeOnlyAtCompletionOrReset := by
  intro s t h hne
  cases step_effect h with
  | unchanged same => exact absurd same.results_eq hne
  | write r v _ _ same => exact absurd (same.results_eq.trans (writeReg_frame r v s).1) hne
  | complete r turn busy _ => exact .inl ⟨turn, busy⟩
  | raise e turn busy _ => exact .inl ⟨turn, busy⟩
  | reset turn _ => exact .inr turn

/-- A step that starts the Engine is the delivery of a CMD write, and leaves the Engine as its issue does
(10_state.md R21, R40). -/
theorem step_starts_engine {s t : State} (h : step s = .next t) (hs : s.engine.busy = false)
    (ht : t.engine.busy = true) :
    ∃ v, DeliversWrite s .cmd v ∧ t.response = .ack ∧ t.engine = (s.issue v).engine := by
  cases step_effect h with
  | unchanged same => simp [same.engine_eq, hs] at ht
  | write r v delivered ack same =>
    obtain heq | ⟨rfl, -, hissue⟩ := writeReg_engine_cases (r := r) (v := v) (s := s)
    · simp [same.engine_eq, heq, hs] at ht
    · exact ⟨v, delivered, ack, same.engine_eq.trans (by rw [hissue])⟩
  | complete r _ busy _ => simp [hs] at busy
  | raise e _ busy _ => simp [hs] at busy
  | reset _ same => simp [same.engine_eq, State.reset] at ht

/-- A step that makes the Engine idle is the Engine's own or a reset (10_state.md R21). -/
theorem step_stops_engine {s t : State} (h : step s = .next t) (hs : s.engine.busy = true)
    (ht : t.engine.busy = false) : nextTurn s = some .engine ∨ nextTurn s = some .reset := by
  cases step_effect h with
  | unchanged same => simp [same.engine_eq, hs] at ht
  | write r v _ _ same =>
    obtain heq | ⟨-, hidle, -⟩ := writeReg_engine_cases (r := r) (v := v) (s := s)
    · simp [same.engine_eq, heq, hs] at ht
    · simp [hs] at hidle
  | complete r turn _ _ => exact .inl turn
  | raise e turn _ _ => exact .inl turn
  | reset turn _ => exact .inr turn

/-- Settles O28: a start is the issue of a delivered CMD write, a stop is the Engine's turn or a reset. -/
theorem onlyIssueAndCompletionMoveTheEngine : Obligations.OnlyIssueAndCompletionMoveTheEngine := by
  intro s t h
  refine ⟨fun hs ht => ?_, step_stops_engine h⟩
  obtain ⟨v, delivered, ack, hengine⟩ := step_starts_engine h hs ht
  rw [hengine]
  exact ⟨rfl, ack, delivered⟩

end Sys2Proof.Machine

namespace Sys2Proof.Machine

/-! ### The bus: which accesses reach a register, and how each answers -/

/-- An address with an offset is in the window, and the offset is the access's own (20_memory.md R61). -/
theorem inWindow_of_windowOffset {a : Access} {off : Nat} (h : windowOffset a.addr = some off) :
    a.InWindow ∧ a.off = off := by
  by_cases hw : a.InWindow
  · exact ⟨hw, Option.some.inj ((windowOffset_inWindow hw).symm.trans h)⟩
  · simp [windowOffset_outside hw] at h

/-- An access outside the window drives nothing back (20_memory.md R61; log entry 5). -/
theorem busAccess_outside {a : Access} (h : ¬ a.InWindow) (s : State) : busAccess a s = (.idle, s) := by
  simp [busAccess, windowOffset_outside h]

/-- An access in the window that no register answers is a bus error (20_memory.md R62, R63, R65). -/
theorem busAccess_illegal {a : Access} (hw : a.InWindow) (hbad : a.width ≠ 8 ∨ a.off % 8 ≠ 0 ∨ 0x70 ≤ a.off)
    (s : State) : busAccess a s = (.error, s) := by
  have hr : legalReg a.off a.width = none := (legalReg_eq_none_iff (Access.off_lt hw)).mpr hbad
  simp [busAccess, windowOffset_inWindow hw, hr]

/-- A step whose access is a bus error is a fault (20_memory.md R65). -/
theorem accessStep_of_error {a : Access} {s : State} (h : busAccess a s = (.error, s)) :
    accessStep a s = .fault (.busError a) := by
  simp [accessStep, h]

/-- An access step goes on, or is the fault of a bus error in the window. -/
theorem accessStep_next_or_busError (a : Access) (s : State) :
    (∃ t, accessStep a s = .next t) ∨
      (a.InWindow ∧ (a.width ≠ 8 ∨ a.off % 8 ≠ 0 ∨ 0x70 ≤ a.off) ∧ accessStep a s = .fault (.busError a)) := by
  obtain ⟨-, hb⟩ | ⟨off, ho, ⟨hr, hb⟩ | ⟨r, -, ⟨-, hb⟩ | ⟨v, -, hb⟩⟩⟩ := busAccess_cases a s
  · exact .inl ⟨_, by rw [accessStep, hb]⟩
  · obtain ⟨hw, rfl⟩ := inWindow_of_windowOffset ho
    exact .inr ⟨hw, (legalReg_eq_none_iff (Access.off_lt hw)).mp hr, accessStep_of_error hb⟩
  · exact .inl ⟨_, by rw [accessStep, hb]⟩
  · exact .inl ⟨_, by rw [accessStep, hb]⟩

/-- The step on a state whose schedule begins with an access. -/
theorem step_access (a : Access) (rest : List Turn) (s : State) :
    step { s with schedule := .access a :: rest } = accessStep a { s with schedule := rest } :=
  step_scheduled (tn := .access a) (rest := rest) rfl

/-- The Host agent never stops: its instructions name registers, so its accesses are legal (30_encoding.md R88). -/
theorem hostStep_goes_on (s : State) : ∃ t, hostStep s = .next t := by
  cases hi : hostInstr s.host with
  | none => exact ⟨s, by rw [hostStep, hi]⟩
  | some i =>
    cases i with
    | wrImm r v => exact ⟨_, hostStep_access hi rfl (accessStep_ofWrite r v s)⟩
    | wrTemp r n => exact ⟨_, hostStep_access hi rfl (accessStep_ofWrite r _ s)⟩
    | rd r n => exact ⟨_, hostStep_access hi rfl (accessStep_ofRead r s)⟩
    | bset n mask label => exact ⟨_, hostStep_local hi rfl⟩
    | halt => exact ⟨_, hostStep_local hi rfl⟩

/-- The Engine's turn never stops: idle it changes nothing, busy it completes. -/
theorem engineStep_goes_on (s : State) : ∃ t, engineStep s = .next t := by
  obtain ⟨-, h⟩ | ⟨-, r, h⟩ | ⟨-, e, h⟩ := engineStep_next s <;> exact ⟨_, h⟩

/-- Settles O5: each of the three conditions leaves the offset without a register. -/
theorem illegalAccessIsABusError : Obligations.IllegalAccessIsABusError := by
  intro s a rest hw hbad
  have herr : ∀ t, busAccess a t = (.error, t) :=
    busAccess_illegal hw (hbad.imp_right (.imp_right And.left))
  exact ⟨herr s, rfl, (step_access a rest s).trans (accessStep_of_error (herr _))⟩

/-- Settles O8: of the four turns only a scheduled access can stop. -/
theorem stepStopsOnlyOnABusError : Obligations.StepStopsOnlyOnABusError := by
  intro s
  obtain ⟨-, hs⟩ | ⟨tn, hn, hs⟩ := step_cases s
  · exact .inl ⟨s, hs⟩
  · rw [hs]
    cases tn with
    | host => exact .inl (hostStep_goes_on s.popTurn)
    | access a => exact (accessStep_next_or_busError a s.popTurn).imp_right fun h => ⟨a, hn, h⟩
    | engine => exact .inl (engineStep_goes_on s.popTurn)
    | reset => exact .inl ⟨_, rfl⟩

/-- Settles O7: the access is answered with no register reached. -/
theorem accessOutsideTheWindowChangesNothing : Obligations.AccessOutsideTheWindowChangesNothing := by
  intro s a rest hw
  refine ⟨{ s with schedule := rest, response := .idle }, ?_, .refl s, rfl, rfl⟩
  rw [step_access, accessStep, busAccess_outside hw]

/-! ### A register access depends on the block only -/

section sameBlockAccess
variable {s t : State} (h : SameBlock s t)
include h

/-- A register reads the same in the same block. -/
theorem SameBlock.readReg_eq (r : Reg) : readReg r t = readReg r s := by
  obtain ⟨hie, hstatus, hoperands, hkey, hresults, hengine⟩ := h
  cases r <;> simp only [readReg, statusWord, hie, hstatus, hoperands, hkey, hresults, hengine]

/-- A register write keeps two equal blocks equal. -/
theorem SameBlock.writeReg (r : Reg) (v : Word) : SameBlock (writeReg r v s) (writeReg r v t) := by
  obtain ⟨hie, hstatus, hoperands, hkey, hresults, hengine⟩ := h
  cases r
  case cmd =>
    cases hb : s.engine.busy with
    | true =>
      rw [writeReg_cmd_of_busy hb, writeReg_cmd_of_busy (hengine ▸ hb)]
      simp [SameBlock, *]
    | false =>
      rw [writeReg_cmd_of_idle hb, writeReg_cmd_of_idle (hengine ▸ hb)]
      simp [SameBlock, State.issue, *]
  all_goals simp [SameBlock, Machine.writeReg, State.writeStatus, *]

end sameBlockAccess

/-- Settles O6: the named read and write of the register, with the turn taken off the schedule. -/
theorem legalAccessReachesItsRegister : Obligations.LegalAccessReachesItsRegister := by
  intro s rest r
  have same : SameBlock s { s with schedule := rest } := .refl s
  refine ⟨?read, fun v => ?write⟩
  case read =>
    have hread := (step_access (.ofRead r) rest s).trans (accessStep_ofRead r _)
    rwa [same.readReg_eq] at hread
  case write =>
    obtain ⟨-, -, hhost, hschedule⟩ := writeReg_frame r v { s with schedule := rest }
    exact ⟨_, (step_access (.ofWrite r v) rest s).trans (accessStep_ofWrite r v _), same.writeReg r v, rfl,
      hhost, hschedule⟩

/-! ### The fields a write ignores, and the reserved fields of a read -/

/-- STATUS looks at the three write-one-to-clear bits only (10_state.md R26, R28 to R30). -/
theorem clearStatus_and_mask (v : Word) (f : StatusFlags) : clearStatus (v &&& 0xE) f = clearStatus v f := by
  simp [clearStatus]

/-- A key field read and written back is unchanged (10_state.md R33). -/
@[simp] theorem keyWrite_keyRead (k : KeyWord) : keyWrite (keyRead k) = k := by
  simp [keyWrite, keyRead]

/-- A key register looks at the low half only (10_state.md R33). -/
theorem keyWrite_and_mask (v : Word) : keyWrite (v &&& 0xFFFFFFFF) = keyWrite v := by
  rw [← keyRead_keyWrite, keyWrite_keyRead]

/-- CTRL reads 0 above bit 0 (10_state.md R25). -/
theorem readReg_ctrl_reserved (s : State) : readReg .ctrl s &&& 0xFFFFFFFFFFFFFFFE = 0 := by
  rw [readReg]
  cases s.ie <;> decide

/-- STATUS reads 0 in [63:24] and [7:4]: the mask falls on the two zero fields of the concatenation
(10_state.md R26). -/
theorem statusWord_reserved (s : State) : statusWord s &&& 0xFFFFFFFFFF0000F0 = 0 := by
  have hmask : (0xFFFFFFFFFF0000F0 : Word) =
      0xFFFFFFFFFF#40 ++ 0#8 ++ 0#8 ++ 0xF#4 ++ 0#1 ++ 0#1 ++ 0#1 ++ 0#1 := by decide
  rw [hmask, statusWord]
  refine (BitVec.and_append (w := 40 + 8 + 8 + 4 + 1 + 1 + 1) (v := 1)).trans ?_
  simp only [BitVec.and_append, BitVec.and_zero, BitVec.zero_and]
  rfl

/-- A key register reads 0 in its high half: what it reads is already cut to the low half (10_state.md R33). -/
theorem keyRead_reserved (k : KeyWord) : keyRead k &&& 0xFFFFFFFF00000000 = 0 :=
  calc keyRead k &&& 0xFFFFFFFF00000000
    _ = keyRead k &&& 0xFFFFFFFF &&& 0xFFFFFFFF00000000 := by rw [← keyRead_keyWrite, keyWrite_keyRead]
    _ = keyRead k &&& (0xFFFFFFFF &&& 0xFFFFFFFF00000000) := BitVec.and_assoc ..
    _ = 0 := BitVec.and_zero

/-- Settles O9: each register's write with the ignored bits masked out, and each read with the others masked out. -/
theorem readOnlyAndReservedWritesAreIgnored : Obligations.ReadOnlyAndReservedWritesAreIgnored := by
  intro s v
  refine ⟨?readOnly, ?ctrl, ?status, ?keys, ?noError, rfl, readReg_ctrl_reserved s, statusWord_reserved s, ?keysRead⟩
  case readOnly => simp [writeReg]
  case ctrl => simp [writeReg]
  case status => simp only [writeReg_status_eq, State.writeStatus, clearStatus_and_mask]
  case keys =>
    simp only [List.forall_mem_cons, writeReg, keyWrite_and_mask]
    simp
  case noError => exact fun r => congrArg Prod.fst (busAccess_ofWrite r v s)
  case keysRead =>
    simp only [List.forall_mem_cons, readReg, keyRead_reserved]
    simp

/-! ### Repeated writes -/

/-- What a STATUS write clears is clear for the next one (20_memory.md R66). -/
theorem clearStatus_idempotent (v : Word) (f : StatusFlags) :
    clearStatus v (clearStatus v f) = clearStatus v f := by
  unfold clearStatus
  cases v.getLsbD 2 <;> simp

/-- A write to any register but CMD is idempotent (20_memory.md R66). -/
theorem writeReg_idempotent {r : Reg} (hr : r ≠ .cmd) (v : Word) (s : State) :
    writeReg r v (writeReg r v s) = writeReg r v s := by
  cases r
  case cmd => contradiction
  case status => simp only [writeReg_status_eq, State.writeStatus, clearStatus_idempotent]
  all_goals rfl

/-- The first CMD write makes the Engine busy, so the second is dropped with OVERRUN (60_exceptions.md R180). -/
theorem writeReg_cmd_twice_overrun {s : State} (hb : s.engine.busy = false) (v : Word) :
    (writeReg .cmd v (writeReg .cmd v s)).status.overrun = true := by
  rw [writeReg_cmd_of_idle hb, writeReg_cmd_of_busy (State.issue_busy s v)]

/-- Settles O11: a repeated CMD write shows in OVERRUN, which the first one leaves clear. -/
theorem writesAreIdempotentExceptCmd : Obligations.WritesAreIdempotentExceptCmd := by
  refine ⟨fun s v r hr => writeReg_idempotent hr v s, fun s v hb hover heq => ?_⟩
  have htwice := writeReg_cmd_twice_overrun hb v
  rw [heq, writeReg_cmd_of_idle hb, State.issue_overrun, hover] at htwice
  cases htwice

end Sys2Proof.Machine

namespace Sys2Proof

/-! ### The command decoder inverts the encoder -/

/-- Every row of the opcode map compares the whole word with its command's encoding (30_encoding.md R81, R82). -/
theorem opcodeTable_rows :
    ∀ r ∈ opcodeTable, r.mask = BitVec.allOnes 64 ∧ r.pattern = encode r.instr := by decide

/-- A row of the opcode map is hit by its command's encoding only (30_encoding.md R81). -/
theorem eq_encode_of_hits {r : OpcodeRow} {w : Word} (hr : r ∈ opcodeTable) (h : r.hits w = true) :
    w = encode r.instr := by
  obtain ⟨hmask, hpattern⟩ := opcodeTable_rows r hr
  rwa [OpcodeRow.hits, hmask, hpattern, BitVec.and_allOnes, beq_iff_eq] at h

/-- Decode of encode is the command (30_encoding.md R81). -/
@[simp] theorem decode_encode (i : Instr) : decode (encode i) = .ok i := by
  cases i <;> rfl

/-- A word that decodes is the encoding of the command it decodes to: the row found is a row of the opcode map
(30_encoding.md R81). -/
theorem eq_encode_of_decode_eq_ok {w : Word} {i : Instr} (h : decode w = .ok i) : w = encode i := by
  unfold decode at h
  cases hfind : opcodeTable.find? (OpcodeRow.hits w) with
  | some r =>
    have hw : w = encode r.instr := eq_encode_of_hits (List.mem_of_find?_eq_some hfind) (List.find?_some hfind)
    rw [hfind] at h
    cases h
    exact hw
  | none =>
    rw [hfind] at h
    cases hz : CommandWord.rsvdZero w <;> simp [hz] at h

/-- A word decodes to a command exactly when it is that command's encoding (30_encoding.md R81). -/
theorem decode_eq_ok_iff {w : Word} {i : Instr} : decode w = .ok i ↔ w = encode i :=
  ⟨eq_encode_of_decode_eq_ok, fun h => h ▸ decode_encode i⟩

/-! ### The words that decode are the legal ones -/

/-- The RSVD field of an encoding is zero (30_encoding.md R80). -/
@[simp] theorem encode_rsvd (i : Instr) : (encode i).extractLsb' 8 56 = 0#56 :=
  BitVec.extractLsb'_append_eq_left

/-- The OPCODE field of an encoding (30_encoding.md R80). -/
@[simp] theorem encode_opcode (i : Instr) : (encode i).extractLsb' 0 8 = opcode i :=
  BitVec.extractLsb'_append_eq_right

/-- A byte is a command's opcode exactly when it is one of 0x01 to 0x0A (30_encoding.md R82, R83). -/
theorem exists_opcode_eq_iff {b : Byte} : (∃ i, opcode i = b) ↔ 0x01#8 ≤ b ∧ b ≤ 0x0A#8 := by
  constructor
  · rintro ⟨i, rfl⟩
    cases i <;> decide
  · rintro ⟨hlo, hhi⟩
    have row : ∀ b : Byte, 0x01#8 ≤ b → b ≤ 0x0A#8 → ∃ r ∈ opcodeTable, opcode r.instr = b := by decide
    obtain ⟨r, -, hr⟩ := row b hlo hhi
    exact ⟨r.instr, hr⟩

/-- A word is a command's encoding exactly when its RSVD field is zero and its OPCODE field is that command's
(30_encoding.md R80). -/
theorem eq_encode_iff {w : Word} {i : Instr} :
    w = encode i ↔ w.extractLsb' 8 56 = 0#56 ∧ opcode i = w.extractLsb' 0 8 := by
  constructor
  · rintro rfl
    exact ⟨encode_rsvd i, (encode_opcode i).symm⟩
  · rintro ⟨hrsvd, hop⟩
    calc w = w.extractLsb' 8 56 ++ w.extractLsb' 0 8 :=
          (BitVec.extractLsb'_append_extractLsb' (w := 56) (len := 8)).symm
      _ = encode i := by rw [hrsvd, ← hop, encode]

/-- A word decodes to some command exactly when it is legal (30_encoding.md R81). -/
theorem exists_decode_eq_ok_iff {w : Word} :
    (∃ i, decode w = .ok i) ↔ w.extractLsb' 8 56 = 0#56 ∧ 0x01#8 ≤ w.extractLsb' 0 8 ∧ w.extractLsb' 0 8 ≤ 0x0A#8 := by
  simp only [decode_eq_ok_iff, eq_encode_iff, exists_and_left, exists_opcode_eq_iff]

end Sys2Proof

namespace Sys2Proof.Machine

/-- Settles O32: the decoder compares whole words with the ten encodings, whose opcodes are the bytes 0x01 to 0x0A. -/
theorem decodeInvertsEncodeOnAllWords : Obligations.DecodeInvertsEncodeOnAllWords :=
  ⟨fun _ _ => decode_eq_ok_iff, fun _ => exists_decode_eq_ok_iff⟩

/-- Settles O31: each of the ten words is its command's encoding. -/
theorem theTenCommandWordsDecode : Obligations.TheTenCommandWordsDecode :=
  ⟨decode_encode .codedec, decode_encode .mul, decode_encode .mulmod, decode_encode .modpow, decode_encode .extgcd,
    decode_encode .modinv, decode_encode .keyderive, decode_encode .crtdec, decode_encode .pwenc,
    decode_encode .decodepw⟩

/-- The three forms of an illegal word exclude a legal one (30_encoding.md R83). -/
theorem decode_ne_ok_of_illegal {w : Word}
    (h : w.extractLsb' 0 8 = 0x00#8 ∨ 0x0B#8 ≤ w.extractLsb' 0 8 ∨ w.extractLsb' 8 56 ≠ 0#56) (i : Instr) :
    decode w ≠ .ok i := by
  intro hd
  obtain ⟨hrsvd, hlo, hhi⟩ := exists_decode_eq_ok_iff.mp ⟨i, hd⟩
  obtain h0 | hB | hne := h
  · exact absurd (h0 ▸ hlo) (by decide)
  · exact absurd (BitVec.le_trans hB hhi) (by decide)
  · exact hne hrsvd

/-- Settles O21: a busy Engine whose word does not decode completes with the error of an illegal word. -/
theorem illegalWordCompletesWithIllegalCommand : Obligations.IllegalWordCompletesWithIllegalCommand := by
  intro s hb hill
  obtain ⟨hidle, -⟩ | ⟨-, -, h⟩ | ⟨-, i, hd, -⟩ := engineStep_cases s
  · simp [hb] at hidle
  · exact h
  · exact absurd hd (decode_ne_ok_of_illegal hill i)

/-! ### The Host agent's instructions -/

/-- A Host instruction that writes a register: the block is the written one, and the agent advances
(30_encoding.md R88). -/
theorem hostStep_write {s : State} {i : HostInstr} {r : Reg} {v : Word} (hi : hostInstr s.host = some i)
    (ht : hostTransaction s.host i = some (Access.ofWrite r v)) :
    ∃ t, hostStep s = .next t ∧ SameBlock (writeReg r v s) t ∧ t.host = hostAdvance s.host i 0 := by
  obtain ⟨-, -, hhost, -⟩ := writeReg_frame r v s
  refine ⟨_, hostStep_access hi ht (accessStep_ofWrite r v s), .refl (writeReg r v s), ?_⟩
  exact congrArg (hostAdvance · i 0) hhost

/-- Settles O30: the two `wr` and the `rd` are their access, then the agent advances; the others advance only. -/
theorem hostInstructionsActAsTabled : Obligations.HostInstructionsActAsTabled := by
  intro s
  refine ⟨?wrImm, ?wrTemp, ?rd, ?bset, ?halt⟩
  case wrImm => exact fun r v hi => hostStep_write hi rfl
  case wrTemp => exact fun r n hi => hostStep_write hi rfl
  case rd => exact fun r n hi => ⟨_, hostStep_access hi rfl (accessStep_ofRead r s), .refl s, rfl⟩
  case bset => exact fun n mask label hi => hostStep_local hi rfl
  case halt => exact fun hi => hostStep_local hi rfl

end Sys2Proof.Machine

namespace Sys2Proof.Machine

/-! ### Byte vectors and registers -/

/-- A byte vector's value as a fold, byte 0 the least significant (20_memory.md R67). -/
theorem bytesValue_eq_foldr (bs : List Byte) :
    bytesValue bs = bs.foldr (fun b acc => b.toNat + 2 ^ 8 * acc) 0 := by
  induction bs with
  | nil => rfl
  | cons b bs ih => rw [bytesValue, ih, List.foldr_cons]

/-- Read from the last byte down, a byte vector is its digits in base 256, most significant first. -/
theorem bytesValue_reverse (bs : List Byte) :
    bytesValue bs.reverse = bs.foldl (fun acc b => b.toNat + 2 ^ 8 * acc) 0 := by
  rw [bytesValue_eq_foldr, List.foldr_reverse]

/-- Byte i of a byte vector's value (20_memory.md R67). -/
theorem bytesValue_shiftRight_mod (bs : List Byte) (i : Nat) :
    bytesValue bs >>> (8 * i) % 2 ^ 8 = (bs.getD i 0).toNat := by
  induction bs generalizing i with
  | nil => simp [bytesValue]
  | cons b bs ih =>
    have hb : b.toNat < 2 ^ 8 := b.isLt
    cases i with
    | zero => rw [bytesValue, List.getD_cons_zero]; omega
    | succ i =>
      have hrest : (b.toNat + 2 ^ 8 * bytesValue bs) >>> 8 = bytesValue bs := by omega
      rw [bytesValue, List.getD_cons_succ, ← ih i, Nat.mul_succ, Nat.add_comm (8 * i), Nat.shiftRight_add, hrest]

/-- Byte i of a register a byte vector was packed into: past the vector's end it is 0 (30_encoding.md R84). -/
theorem byteOf_packBytes (bs : List Byte) {i : Nat} (hi : i < 8) : byteOf (packBytes bs) i = bs.getD i 0 := by
  apply BitVec.eq_of_toNat_eq
  rw [← bytesValue_shiftRight_mod bs i, byteOf, packBytes, BitVec.extractLsb'_toNat, BitVec.toNat_ofNat]
  simp only [Nat.shiftRight_eq_div_pow]
  interval_cases i <;> omega

@[simp] theorem bytesOf_length (v : Word) : (bytesOf v).length = 8 := rfl

/-- Eight bytes packed into a register are its bytes (30_encoding.md R84). -/
theorem bytesOf_packBytes {bs : List Byte} (h : bs.length = 8) : bytesOf (packBytes bs) = bs := by
  match bs, h with
  | [_, _, _, _, _, _, _, _], _ => simp [bytesOf, byteOf_packBytes]

/-- A register is its eight bytes packed (30_encoding.md R84). -/
theorem packBytes_bytesOf (v : Word) : packBytes (bytesOf v) = v := by
  have hv : v.toNat < 2 ^ 64 := v.isLt
  have hval : bytesValue (bytesOf v) = v.toNat := by
    simp only [bytesOf, bytesValue, byteOf, BitVec.extractLsb'_toNat, Nat.shiftRight_eq_div_pow]
    omega
  rw [packBytes, hval, BitVec.ofNat_toNat, BitVec.setWidth_eq]

/-! ### CODE_LUT -/

/-- The position of a symbol is its hexadecimal digit (40_code_decoder.md R104). -/
theorem idxOf_codeAlphabet_lt {c : Byte} : codeAlphabet.idxOf c < 16 ↔ c ∈ codeAlphabet :=
  List.idxOf_lt_length_iff

/-- CODE_LUT accepts exactly the symbols (10_state.md R42). -/
theorem codeLut_valid_iff {c : Byte} : (codeLut c).valid = true ↔ c ∈ codeAlphabet := by
  rw [← List.isSome_idxOf?, ← indexOf, codeLut]
  cases indexOf codeAlphabet c <;> simp

/-- CODE_LUT gives the position of a symbol (10_state.md R42). -/
theorem codeLut_index {c : Byte} (h : c ∈ codeAlphabet) : (codeLut c).index.toNat = codeAlphabet.idxOf c := by
  have hlt : codeAlphabet.idxOf c < 16 := idxOf_codeAlphabet_lt.mpr h
  obtain ⟨i, hi⟩ := Option.isSome_iff_exists.mp (List.isSome_idxOf?.mpr h)
  have hidx : codeAlphabet.idxOf c = i := by rw [List.idxOf_eq_getD_idxOf?, hi, Option.getD_some]
  rw [hidx] at hlt ⊢
  rw [codeLut, indexOf, hi]
  exact Nat.mod_eq_of_lt hlt

/-! ### The code decoder reads hexadecimal digits -/

/-- Two hexadecimal digits read one after the other are the byte of their pair (40_code_decoder.md R101). -/
theorem toNat_append_nibbles (hi lo : BitVec 4) (acc : Nat) :
    (hi ++ lo).toNat + 2 ^ 8 * acc = 16 * (16 * acc + hi.toNat) + lo.toNat := by
  rw [BitVec.toNat_append, ← Nat.shiftLeft_add_eq_or_of_lt lo.isLt, Nat.shiftLeft_eq]
  omega

/-- Pairs of digits read in base 256 are the digits read in base 16 (40_code_decoder.md R101, R104). -/
theorem foldl_pairUp : ∀ ds : List (BitVec 4), 2 ∣ ds.length → ∀ acc,
    (pairUp ds).foldl (fun acc b => b.toNat + 2 ^ 8 * acc) acc =
      (ds.map BitVec.toNat).foldl (fun acc d => 16 * acc + d) acc
  | [], _, _ => rfl
  | [_], hodd, _ => by simp at hodd
  | hi :: lo :: rest, heven, acc => by
    have hrest : 2 ∣ rest.length := Nat.dvd_add_self_right.mp heven
    simp only [pairUp, List.foldl_cons, List.map_cons, toNat_append_nibbles, foldl_pairUp rest hrest]

section codeDecode
variable {a b : Word}

/-- Every lookup of a valid code answers (40_code_decoder.md R102). -/
theorem all_valid_iff_validCode :
    ((bytesOf a ++ bytesOf b).map codeLut).all CodeEntry.valid = true ↔ ValidCode a b := by
  simp only [List.all_map, List.all_eq_true, Function.comp_apply, codeLut_valid_iff, ValidCode]

/-- A valid code decodes to its value (40_code_decoder.md R104). -/
theorem codeDecode_of_validCode (h : ValidCode a b) : codeDecode a b = .ok (ofU64 (codeValue a b)) := by
  have hdigits : (((bytesOf a ++ bytesOf b).map codeLut).map CodeEntry.index).map BitVec.toNat =
      (bytesOf a ++ bytesOf b).map (fun c => codeAlphabet.idxOf c) := by
    rw [List.map_map, List.map_map]
    exact List.map_congr_left fun c hc => codeLut_index (h c hc)
  rw [codeDecode, if_pos (all_valid_iff_validCode.mpr h), packBytes, bytesValue_reverse,
    foldl_pairUp _ (by simp), hdigits]
  rfl

/-- An invalid byte anywhere is an error (40_code_decoder.md R102). -/
theorem codeDecode_of_not_validCode (h : ¬ ValidCode a b) : codeDecode a b = .error .invalidSymbol :=
  if_neg fun hall => h (all_valid_iff_validCode.mp hall)

end codeDecode

/-- Settles O33: CODEDEC is the decoder on the latched operands. -/
theorem codedecReadsTheCodeAsHexDigits : Obligations.CodedecReadsTheCodeAsHexDigits := by
  intro s h
  apply succeeds_of_runOf_eq_ok
  rw [runOf, runCodedec, codeDecode_of_validCode h]
  rfl

/-- Settles O34: one byte that is no symbol makes the code invalid. -/
theorem codedecRejectsEveryInvalidSymbol : Obligations.CodedecRejectsEveryInvalidSymbol := by
  refine ⟨fun s c hc hbad => failsWith_of_runOf_eq_error ?_, rfl⟩
  rw [runOf, runCodedec, codeDecode_of_not_validCode fun h => hbad (h c hc)]

/-! ### Codes and ciphertexts are in bijection -/

/-- The symbol of a hexadecimal digit (10_state.md R42). -/
def codeSymbol (d : Nat) : Byte := codeAlphabet.getD d 0

/-- The sixteen digits have symbols, each at its own position (10_state.md R42). -/
theorem codeSymbol_of_lt :
    ∀ d < 16, codeSymbol d ∈ codeAlphabet ∧ codeAlphabet.idxOf (codeSymbol d) = d := by decide

theorem codeSymbol_idxOf {c : Byte} (h : c ∈ codeAlphabet) : codeSymbol (codeAlphabet.idxOf c) = c := by
  rw [codeSymbol, List.getD_eq_getElem?_getD, List.getElem?_idxOf h, Option.getD_some]

/-- The sixteen bytes of a code as digits, most significant first (40_code_decoder.md R104). -/
def codeDigits (ab : Word × Word) : List Nat := (bytesOf ab.1 ++ bytesOf ab.2).map (fun c => codeAlphabet.idxOf c)

/-- The code with given digits (40_code_decoder.md R105). -/
def codeOfDigits (ds : List Nat) : Word × Word :=
  (packBytes ((ds.map codeSymbol).take 8), packBytes ((ds.map codeSymbol).drop 8))

/-- The lists of sixteen hexadecimal digits. -/
def hexDigits16 : Set (List Nat) := {ds | ds.length = 16 ∧ ∀ d ∈ ds, d < 16}

/-- The bytes of the code with given digits are the digits' symbols, in order. -/
theorem bytesOf_codeOfDigits {ds : List Nat} (h : ds.length = 16) :
    bytesOf (codeOfDigits ds).1 ++ bytesOf (codeOfDigits ds).2 = ds.map codeSymbol := by
  rw [codeOfDigits, bytesOf_packBytes (by simp [h]), bytesOf_packBytes (by simp [h]), List.take_append_drop]

/-- A code is the one with its digits. -/
theorem codeOfDigits_codeDigits {ab : Word × Word} (h : ValidCode ab.1 ab.2) : codeOfDigits (codeDigits ab) = ab := by
  have hsymbols : (codeDigits ab).map codeSymbol = bytesOf ab.1 ++ bytesOf ab.2 := by
    rw [codeDigits, List.map_map]
    exact (List.map_congr_left fun c hc => codeSymbol_idxOf (h c hc)).trans (List.map_id _)
  rw [codeOfDigits, hsymbols, List.take_left' (bytesOf_length _), List.drop_left' (bytesOf_length _),
    packBytes_bytesOf, packBytes_bytesOf]

/-- The code with given digits has them. -/
theorem codeDigits_codeOfDigits {ds : List Nat} (h : ds ∈ hexDigits16) : codeDigits (codeOfDigits ds) = ds := by
  obtain ⟨hlen, hlt⟩ := h
  rw [codeDigits, bytesOf_codeOfDigits hlen, List.map_map]
  exact (List.map_congr_left fun d hd => (codeSymbol_of_lt d (hlt d hd)).2).trans (List.map_id _)

/-- Codes and lists of sixteen digits determine each other (40_code_decoder.md R105). -/
theorem bijOn_codeDigits : Set.BijOn codeDigits {ab | ValidCode ab.1 ab.2} hexDigits16 := by
  refine Set.InvOn.bijOn (f' := codeOfDigits)
    ⟨fun ab h => codeOfDigits_codeDigits h, fun ds h => codeDigits_codeOfDigits h⟩ ?digits ?code
  case digits =>
    rintro ⟨a, b⟩ h
    refine ⟨by simp [codeDigits], fun d hd => ?_⟩
    obtain ⟨c, hc, rfl⟩ := List.mem_map.mp hd
    exact idxOf_codeAlphabet_lt.mpr (h c hc)
  case code =>
    rintro ds ⟨hlen, hlt⟩ c hc
    rw [bytesOf_codeOfDigits hlen] at hc
    obtain ⟨d, hd, rfl⟩ := List.mem_map.mp hc
    exact (codeSymbol_of_lt d (hlt d hd)).1

/-- Reading sixteen digits as a number is one to one onto the numbers below 16^16: it is the library's base-16 reading
of the reversed list. -/
theorem bijOn_readDigits :
    Set.BijOn (fun ds : List Nat => ds.foldl (fun acc d => 16 * acc + d) 0) hexDigits16 {n | n < 16 ^ 16} := by
  have hfold : (fun ds : List Nat => ds.foldl (fun acc d => 16 * acc + d) 0) = Nat.ofDigits 16 ∘ List.reverse := by
    funext ds
    simp [Nat.ofDigits_eq_foldr, Nat.add_comm]
  have hrev : Set.MapsTo List.reverse hexDigits16 hexDigits16 := fun ds h => by simpa [hexDigits16] using h
  rw [hfold]
  exact (Nat.bijOn_ofDigits (by decide) 16).comp
    (Set.InvOn.bijOn ⟨fun ds _ => List.reverse_reverse ds, fun ds _ => List.reverse_reverse ds⟩ hrev hrev)

/-- Every 64-bit number is the value of exactly one valid code (40_code_decoder.md R105). -/
theorem bijOn_codeValue :
    Set.BijOn (fun ab : Word × Word => codeValue ab.1 ab.2) {ab | ValidCode ab.1 ab.2} {n | n < 2 ^ 64} :=
  bijOn_readDigits.comp bijOn_codeDigits

theorem codeValue_lt {a b : Word} (h : ValidCode a b) : codeValue a b < 2 ^ 64 :=
  Set.mem_ofPred.mp (bijOn_codeValue.mapsTo (x := (a, b)) h)

/-- A code decodes to `c` exactly when it is valid and has the value of `c` (40_code_decoder.md R102, R104). -/
theorem codeDecode_eq_ok_iff {a b c : Word} :
    codeDecode a b = .ok c ↔ ValidCode a b ∧ codeValue a b = c.toNat := by
  by_cases h : ValidCode a b
  · rw [codeDecode_of_validCode h, Except.ok.injEq, ofU64, ← BitVec.toNat_inj, BitVec.toNat_ofNat,
      Nat.mod_eq_of_lt (codeValue_lt h)]
    simp [h]
  · simp [codeDecode_of_not_validCode h, h]

/-- Settles O35: the ciphertext's number is the value of exactly one valid code. -/
theorem everyCiphertextHasExactlyOneCode : Obligations.EveryCiphertextHasExactlyOneCode := by
  intro c
  obtain ⟨ab, hvalid, hvalue⟩ := bijOn_codeValue.surjOn c.isLt
  refine ⟨ab, codeDecode_eq_ok_iff.mpr ⟨hvalid, hvalue⟩, fun ab' h => ?_⟩
  obtain ⟨hvalid', hvalue'⟩ := codeDecode_eq_ok_iff.mp h
  exact bijOn_codeValue.injOn hvalid' hvalid (hvalue'.trans hvalue.symm)

end Sys2Proof.Machine

namespace Sys2Proof.Machine

/-! ### Numbers in result registers -/

/-- A 64-bit number is read back from the register it was written to (00_scope.md R10). -/
theorem toNat_ofU64 {n : Nat} (h : n < 2 ^ 64) : (ofU64 n).toNat = n := by
  rw [ofU64, BitVec.toNat_ofNat, Nat.mod_eq_of_lt h]

/-- A field is below 2 to its width (00_scope.md R10). -/
theorem bits_lt (v hi lo : Nat) : bits v hi lo < 2 ^ (hi - lo + 1) :=
  Nat.mod_lt _ (Nat.two_pow_pos _)

/-- A 128-bit number is its two 64-bit halves (41_multiplier.md R111). -/
theorem bits_halves {p : Nat} (h : p < 2 ^ 128) : bits p 127 64 * 2 ^ 64 + bits p 63 0 = p := by
  have hhigh : bits p 127 64 = p / 2 ^ 64 := by
    rw [bits, Nat.shiftRight_eq_div_pow, Nat.mod_eq_of_lt (by omega)]
  have hlow : bits p 63 0 = p % 2 ^ 64 := rfl
  rw [hhigh, hlow, Nat.div_add_mod']

/-! ### The multiplier and the reducer -/

/-- The product of two 64-bit words has 128 bits (41_multiplier.md R110). -/
theorem mul128_lt (a b : Word) : mul128 a.toNat b.toNat < 2 ^ 128 :=
  calc a.toNat * b.toNat
    _ < 2 ^ 64 * 2 ^ 64 := Nat.mul_lt_mul'' a.isLt b.isLt
    _ = 2 ^ 128 := by decide

/-- A modulus other than 0 reduces the full product (41_multiplier.md R112). -/
theorem mulMod_of_ne_zero (a b : Nat) {m : Nat} (h : m ≠ 0) : mulMod a b m = .ok (a * b % m) := if_neg h

/-- A modulus of 0 is BAD_MODULUS (41_multiplier.md R112). -/
theorem mulMod_of_eq_zero (a b : Nat) {m : Nat} (h : m = 0) : mulMod a b m = .error .badModulus := if_pos h

/-- Settles O36: the two result registers are the halves of a product that fits in 128 bits. -/
theorem mulGivesTheExactProduct : Obligations.MulGivesTheExactProduct := by
  intro s
  refine ⟨ofU64 (bits (mul128 s.a s.b) 63 0), ofU64 (bits (mul128 s.a s.b) 127 64),
    succeeds_of_runOf_eq_ok rfl, ?_⟩
  rw [toNat_ofU64 (bits_lt _ 63 0), toNat_ofU64 (bits_lt _ 127 64), bits_halves (mul128_lt _ _), mul128]

/-- Settles O37: a residue of the full product is below a 64-bit modulus, so RES0 holds it whole. -/
theorem mulmodReducesTheFullProduct : Obligations.MulmodReducesTheFullProduct := by
  intro s
  refine ⟨fun hc => ?reduced, fun hc => ?badModulus⟩
  case reduced =>
    have hlt : s.a * s.b % s.c < s.c := Nat.mod_lt _ (Nat.pos_of_ne_zero hc)
    have hres : (ofU64 (s.a * s.b % s.c)).toNat = s.a * s.b % s.c := toNat_ofU64 (hlt.trans (BitVec.isLt _))
    refine ⟨ofU64 (s.a * s.b % s.c), succeeds_of_runOf_eq_ok ?_, hres, hres.trans_lt hlt⟩
    rw [runOf, runMulmod, u64, u64, u64, mulMod_of_ne_zero _ _ hc]
  case badModulus =>
    apply failsWith_of_runOf_eq_error
    rw [runOf, runMulmod, u64, u64, u64, mulMod_of_eq_zero _ _ hc]

end Sys2Proof.Machine

namespace Sys2Proof.Machine

/-! ### The exponentiation unit -/

/-- One pass of the loop takes the lowest bit off the exponent: bit 0 of `x` as a factor of `b`, the rest as a power of
the square (42_modpow.md R120). -/
theorem mul_pow_eq_of_bit (acc b x : Nat) :
    (if x % 2 = 1 then acc * b else acc) * (b * b) ^ (x / 2) = acc * b ^ x := by
  have hx : x = x % 2 + 2 * (x / 2) := (Nat.mod_add_div x 2).symm
  have hpow : b ^ x = b ^ (x % 2) * (b * b) ^ (x / 2) := by
    conv_lhs => rw [hx]
    rw [pow_add, pow_mul, pow_two]
  obtain h | h := Nat.mod_two_eq_zero_or_one x <;> simp [h, hpow, Nat.mul_assoc]

/-- The loop invariant of 42_modpow.md R120: the accumulator times the base to the remaining exponent keeps its
residue, so with enough fuel the loop ends with it. -/
theorem modPowLoop_eq {m fuel acc x : Nat} (b : Nat) (hfuel : x ≤ fuel) (hacc : acc < m) :
    modPowLoop m fuel acc b x = acc * b ^ x % m := by
  induction fuel generalizing acc b x with
  | zero =>
    obtain rfl : x = 0 := Nat.le_zero.mp hfuel
    simp [modPowLoop, Nat.mod_eq_of_lt hacc]
  | succ fuel ih =>
    rw [modPowLoop]
    split
    next hx => simp [hx, Nat.mod_eq_of_lt hacc]
    next hx =>
      have hhalf : x >>> 1 ≤ fuel := by omega
      have hm : 0 < m := Nat.zero_lt_of_lt hacc
      have hnext : (if x % 2 = 1 then acc * b % m else acc) = (if x % 2 = 1 then acc * b else acc) % m := by
        split
        · rfl
        · exact (Nat.mod_eq_of_lt hacc).symm
      rw [mul128, mul128, hnext, ih _ hhalf (Nat.mod_lt _ hm), Nat.shiftRight_one, ← mul_pow_eq_of_bit acc b x]
      exact (Nat.mod_modEq _ m).mul ((Nat.mod_modEq _ m).pow _)

/-- ModPow is the residue of the power for every modulus but 0; for the modulus 1 it is 0, as the early exit gives
(42_modpow.md R121, R124). -/
theorem modPow_of_ne_zero (b x : Nat) {m : Nat} (h : m ≠ 0) : modPow b x m = .ok (b ^ x % m) := by
  rw [modPow, if_neg h]
  split
  next hone => rw [hone, Nat.mod_one]
  next hone =>
    have hlt : 1 < m := by omega
    rw [modPowLoop_eq _ le_rfl hlt, Nat.one_mul, ← Nat.pow_mod]

/-- A modulus of 0 is BAD_MODULUS (42_modpow.md R122). -/
theorem modPow_of_eq_zero (b x : Nat) {m : Nat} (h : m = 0) : modPow b x m = .error .badModulus := if_pos h

/-- MODPOW completes with the residue of the power for every modulus but 0 (42_modpow.md R121, R124). -/
theorem modpow_succeeds {s : State} (h : s.c ≠ 0) :
    Succeeds .modpow s { res0 := ofU64 (s.a ^ s.b % s.c), res1 := 0, res2 := 0, res3 := 0 } := by
  apply succeeds_of_runOf_eq_ok
  rw [runOf, runModpow, u64, u64, u64, modPow_of_ne_zero _ _ h]

/-- Settles O38: the loop's invariant gives the power's residue, which is below a 64-bit modulus, so RES0 holds it. -/
theorem modpowComputesThePower : Obligations.ModpowComputesThePower := by
  intro s hc
  have hlt : s.a ^ s.b % s.c < s.c := Nat.mod_lt _ (Nat.zero_lt_of_lt hc)
  have hres : (ofU64 (s.a ^ s.b % s.c)).toNat = s.a ^ s.b % s.c := toNat_ofU64 (hlt.trans (BitVec.isLt _))
  exact ⟨_, modpow_succeeds (Nat.ne_zero_of_lt hc), hres, hres.trans_lt hlt⟩

/-! ### What key derivation and decryption can answer -/

/-- Modulo anything but 0 there is an inverse or NO_MODINV (43_extgcd.md R133). -/
theorem modInv_cases (a : Nat) {m : Nat} (h : m ≠ 0) :
    (∃ r, modInv a m = .ok r) ∨ modInv a m = .error .noModinv := by
  rw [modInv, if_neg h]
  by_cases hg : (extGcd a m).g = 1
  · exact .inl ⟨_, if_pos hg⟩
  · exact .inr (if_neg hg)

/-- KeyDerive rejects the primes, finds no inverse, or derives a key of p and q at least 2: neither phi nor p is then a
modulus of 0 (44_crt.md R141). -/
theorem keyDerive_cases (p q e : Nat) :
    keyDerive p q e = .error .keyInvalid ∨ keyDerive p q e = .error .noModinv ∨
      ∃ k, keyDerive p q e = .ok k ∧ 2 ≤ p ∧ 2 ≤ q := by
  rw [keyDerive]
  split
  next => exact .inl rfl
  next hpq =>
    obtain ⟨hp, hq⟩ : 2 ≤ p ∧ 2 ≤ q := by omega
    have hphi : (p - 1) * (q - 1) ≠ 0 := Nat.mul_ne_zero (by omega) (by omega)
    obtain ⟨d, hd⟩ | hd := modInv_cases e hphi <;> rw [hd]
    · obtain ⟨qinv, hi⟩ | hi := modInv_cases q (m := p) (by omega) <;> rw [hi]
      · exact .inr (.inr ⟨_, rfl, hp, hq⟩)
      · exact .inr (.inl rfl)
    · exact .inr (.inl rfl)

/-- CrtDecrypt ends with an error of KeyDerive, or recombines the two powers: neither ModPow has a modulus of 0
(42_modpow.md R122, 44_crt.md R143). -/
theorem crtDecrypt_cases (c p q e : Nat) :
    crtDecrypt c p q e = .error .keyInvalid ∨ crtDecrypt c p q e = .error .noModinv ∨
      ∃ k, keyDerive p q e = .ok k ∧
        crtDecrypt c p q e = .ok (recombine p q k.qinv (c ^ k.dp % p) (c ^ k.dq % q)) := by
  rw [crtDecrypt]
  obtain hk | hk | ⟨k, hk, hp, hq⟩ := keyDerive_cases p q e <;> rw [hk]
  · exact .inl rfl
  · exact .inr (.inl rfl)
  · refine .inr (.inr ⟨k, rfl, ?_⟩)
    simp only [modPow_of_ne_zero c k.dp (Nat.ne_zero_of_lt hp), modPow_of_ne_zero c k.dq (Nat.ne_zero_of_lt hq)]

/-- Settles O39: a power's residue modulo 1 is 0, the modulus 0 is tested first, and a derived key has neither p nor q
equal to 0. -/
theorem modpowOfModulusOneAndZero : Obligations.ModpowOfModulusOneAndZero := by
  refine ⟨fun s hc => ?one, fun s hc => ?zero, fun c p q e => ?crtdec⟩
  case one =>
    have hres := modpow_succeeds (s := s) (by omega)
    rwa [hc, Nat.mod_one] at hres
  case zero =>
    apply failsWith_of_runOf_eq_error
    rw [runOf, runModpow, u64, u64, u64, modPow_of_eq_zero _ _ hc]
  case crtdec =>
    obtain h | h | ⟨k, -, h⟩ := crtDecrypt_cases c p q e <;> simp [h]

end Sys2Proof.Machine

namespace Sys2Proof.Machine

/-! ### The recursion of ExtGcd -/

/-- Once the fuel covers the second argument, more of it changes nothing (43_extgcd.md R130; log entry 12). -/
theorem extGcdLoop_fuel_irrel {fuel fuel' a b : Nat} (h : b ≤ fuel) (h' : b ≤ fuel') :
    extGcdLoop fuel a b = extGcdLoop fuel' a b := by
  induction fuel generalizing fuel' a b with
  | zero =>
    obtain rfl : b = 0 := Nat.le_zero.mp h
    cases fuel' <;> rfl
  | succ fuel ih =>
    by_cases hb : b = 0
    · subst hb
      cases fuel' <;> rfl
    · have hmod : a % b < b := Nat.mod_lt _ (Nat.pos_of_ne_zero hb)
      obtain ⟨fuel', rfl⟩ : ∃ n, fuel' = n + 1 := ⟨fuel' - 1, by omega⟩
      have hrest : extGcdLoop fuel b (a % b) = extGcdLoop fuel' b (a % b) := ih (by omega) (by omega)
      rw [extGcdLoop, extGcdLoop, hrest]

@[simp] theorem extGcd_zero (a : Nat) : extGcd a 0 = { x := 1, y := 0, g := a } := rfl

/-- The recursive step of ExtGcd (43_extgcd.md R130). -/
theorem extGcd_of_ne_zero (a : Nat) {b : Nat} (h : b ≠ 0) :
    extGcd a b =
      { x := (extGcd b (a % b)).y
        y := (extGcd b (a % b)).x - ((a / b : Nat) : Int) * (extGcd b (a % b)).y
        g := (extGcd b (a % b)).g } := by
  have hmod : a % b < b := Nat.mod_lt _ (Nat.pos_of_ne_zero h)
  obtain ⟨n, rfl⟩ := Nat.exists_eq_succ_of_ne_zero h
  rw [extGcd, extGcdLoop, if_neg h, extGcdLoop_fuel_irrel (Nat.le_of_lt_succ hmod) le_rfl]
  rfl

/-- Settles O40: the fuel each level hands down covers the next level's second argument. -/
theorem extGcdFollowsItsRecursion : Obligations.ExtGcdFollowsItsRecursion :=
  ⟨extGcd_zero, fun a _ hb => extGcd_of_ne_zero a hb⟩

/-! ### What ExtGcd returns -/

/-- ExtGcd's third component is the greatest common divisor (43_extgcd.md R131). -/
@[simp] theorem extGcd_g (a b : Nat) : (extGcd a b).g = Nat.gcd a b := by
  induction b, a using Nat.gcd.induction with
  | H0 a => simp
  | H1 b a hb ih =>
    rw [extGcd_of_ne_zero a hb.ne']
    calc (extGcd b (a % b)).g
      _ = Nat.gcd b (a % b) := ih
      _ = Nat.gcd a b := by rw [Nat.gcd_comm, ← Nat.gcd_rec, Nat.gcd_comm]

/-- Bezout's identity for ExtGcd's coefficients (43_extgcd.md R131). -/
theorem extGcd_bezout (a b : Nat) :
    (a : Int) * (extGcd a b).x + (b : Int) * (extGcd a b).y = (Nat.gcd a b : Nat) := by
  rw [← extGcd_g]
  induction b, a using Nat.gcd.induction with
  | H0 a => simp
  | H1 b a hb ih =>
    have hdiv : (a : Int) = b * (a / b : Nat) + (a % b : Nat) := mod_cast (Nat.div_add_mod a b).symm
    rw [extGcd_of_ne_zero a hb.ne']
    linear_combination ih + (extGcd b (a % b)).y * hdiv

/-- ExtGcd's coefficients are at most half of the opposite arguments, but for a coefficient 1 of the base case and of
the level above it; so they fit in an S64 register (43_extgcd.md R132). -/
theorem extGcd_bounds (a b : Nat) :
    (b ≠ 0 → 2 * (extGcd a b).x.natAbs ≤ b) ∧ 2 * (extGcd a b).y.natAbs ≤ max 2 a := by
  induction b, a using Nat.gcd.induction with
  | H0 a => simp
  | H1 b a hb ih =>
    obtain ⟨hx, hy⟩ := ih
    rw [extGcd_of_ne_zero a hb.ne']
    by_cases hc : a % b = 0
    · simp [hc]
    · have hmod : a % b < b := Nat.mod_lt _ hb
      have hy' : 2 * (extGcd b (a % b)).y.natAbs ≤ b := by omega
      refine ⟨fun _ => hy', le_max_of_le_right ?_⟩
      calc 2 * ((extGcd b (a % b)).x - ((a / b : Nat) : Int) * (extGcd b (a % b)).y).natAbs
        _ ≤ 2 * ((extGcd b (a % b)).x.natAbs + (((a / b : Nat) : Int) * (extGcd b (a % b)).y).natAbs) :=
          Nat.mul_le_mul_left 2 (Int.natAbs_sub_le _ _)
        _ = 2 * (extGcd b (a % b)).x.natAbs + a / b * (2 * (extGcd b (a % b)).y.natAbs) := by
          rw [Int.natAbs_mul, Int.natAbs_natCast]; ring
        _ ≤ a % b + a / b * b := Nat.add_le_add (hx hc) (Nat.mul_le_mul_left _ hy')
        _ = a := Nat.mod_add_div' a b

/-- A small enough integer is read back from the S64 register it was written to (00_scope.md R10). -/
theorem toInt_tc64 {x : Int} (h : x.natAbs < 2 ^ 63) : (tc64 x).toInt = x := by
  rw [tc64, BitVec.toInt_ofInt_eq_self (by decide)] <;> omega

/-- Settles O41: coefficients of 64-bit numbers are below 2^63 in size, so RES0 and RES1 hold them exactly, and the gcd
is no larger than an operand. -/
theorem extgcdGivesBezoutCoefficients : Obligations.ExtgcdGivesBezoutCoefficients := by
  intro s
  have ha : s.a < 2 ^ 64 := s.engine.latch.operands.opa.isLt
  have hb : s.b < 2 ^ 64 := s.engine.latch.operands.opb.isLt
  obtain ⟨hxle, hyle⟩ := extGcd_bounds s.a s.b
  have hxlt : (extGcd s.a s.b).x.natAbs < 2 ^ 63 := by
    by_cases h0 : s.b = 0
    · simp [h0]
    · have := hxle h0
      omega
  have hylt : (extGcd s.a s.b).y.natAbs < 2 ^ 63 := by omega
  have hglt : Nat.gcd s.a s.b < 2 ^ 64 := by
    obtain h0 | hpos := Nat.eq_zero_or_pos s.a
    · rwa [h0, Nat.gcd_zero_left]
    · exact (Nat.gcd_le_left _ hpos).trans_lt ha
  have hg : (ofU64 (extGcd s.a s.b).g).toNat = Nat.gcd s.a s.b := by rw [extGcd_g, toNat_ofU64 hglt]
  refine ⟨tc64 (extGcd s.a s.b).x, tc64 (extGcd s.a s.b).y, ofU64 (extGcd s.a s.b).g,
    succeeds_of_runOf_eq_ok rfl, toInt_tc64 hxlt, toInt_tc64 hylt, hg, ?_⟩
  rw [toInt_tc64 hxlt, toInt_tc64 hylt, hg, extGcd_bezout]

/-! ### The modular inverse -/

/-- The residue as an integer (00_scope.md R10). -/
theorem residue_cast (a : Int) {m : Nat} (h : m ≠ 0) : (residue a m : Int) = a % m :=
  Int.toNat_of_nonneg (Int.emod_nonneg _ (mod_cast h))

/-- The residue is below the modulus (43_extgcd.md R135). -/
theorem residue_lt (a : Int) {m : Nat} (h : m ≠ 0) : residue a m < m := by
  have hlt : a % (m : Int) < m := Int.emod_lt_of_pos _ (by omega)
  rw [← residue_cast a h] at hlt
  exact_mod_cast hlt

/-- The residue of ExtGcd's first coefficient inverts a number coprime to the modulus (43_extgcd.md R134). -/
theorem mul_residue_extGcd_mod {a m : Nat} (h : m ≠ 0) (hg : Nat.gcd a m = 1) :
    a * residue (extGcd a m).x m % m = 1 % m := by
  have hbezout : (a : Int) * (extGcd a m).x + m * (extGcd a m).y = 1 := by simpa [hg] using extGcd_bezout a m
  have hcast : (a : Int) * residue (extGcd a m).x m % m = 1 % m := by
    rw [residue_cast _ h, Int.mul_emod, Int.emod_emod, ← Int.mul_emod, ← hbezout, Int.add_mul_emod_self_left]
  exact_mod_cast hcast

/-- ModInv of a coprime pair (43_extgcd.md R133). -/
theorem modInv_of_coprime {a m : Nat} (h : m ≠ 0) (hg : Nat.gcd a m = 1) :
    modInv a m = .ok (residue (extGcd a m).x m) := by
  rw [modInv, if_neg h]
  exact if_pos ((extGcd_g a m).trans hg)

/-- ModInv of a pair with a common divisor is NO_MODINV (43_extgcd.md R133). -/
theorem modInv_of_not_coprime {a m : Nat} (h : m ≠ 0) (hg : Nat.gcd a m ≠ 1) : modInv a m = .error .noModinv := by
  rw [modInv, if_neg h]
  exact if_neg (extGcd_g a m ▸ hg)

/-- A modulus of 0 is BAD_MODULUS (43_extgcd.md R133). -/
theorem modInv_of_eq_zero (a : Nat) {m : Nat} (h : m = 0) : modInv a m = .error .badModulus := if_pos h

/-- Settles O42: the first coefficient's residue is the inverse, and being below a 64-bit modulus it fits in RES0. -/
theorem modinvInvertsOrFails : Obligations.ModinvInvertsOrFails := by
  intro s
  refine ⟨fun hm hg => ?inverse, fun hm => ?badModulus, fun hm hg => ?noModinv⟩
  case inverse =>
    have hlt : residue (extGcd s.a s.b).x s.b < s.b := residue_lt _ hm
    have hres : (ofU64 (residue (extGcd s.a s.b).x s.b)).toNat = residue (extGcd s.a s.b).x s.b :=
      toNat_ofU64 (hlt.trans (BitVec.isLt _))
    refine ⟨ofU64 (residue (extGcd s.a s.b).x s.b), succeeds_of_runOf_eq_ok ?run, hres.trans_lt hlt,
      fun htwo => ?inverts, fun hone => ?zero⟩
    case run => rw [runOf, runModinv, u64, u64, modInv_of_coprime hm hg]
    case inverts => rw [hres, mul_residue_extGcd_mod hm hg, Nat.mod_eq_of_lt htwo]
    case zero =>
      apply BitVec.eq_of_toNat_eq
      rw [hres]
      exact Nat.lt_one_iff.mp (hone ▸ hlt)
  case badModulus =>
    apply failsWith_of_runOf_eq_error
    rw [runOf, runModinv, u64, u64, modInv_of_eq_zero _ hm]
  case noModinv =>
    apply failsWith_of_runOf_eq_error
    rw [runOf, runModinv, u64, u64, modInv_of_not_coprime hm hg]

end Sys2Proof.Machine

namespace Sys2Proof.Machine

/-! ### Key derivation -/

/-- `k` is the key that (p, q, e) derives: d inverts e modulo phi, dp and dq are its residues, qinv inverts q modulo p
(44_crt.md R141). -/
structure DerivedKey.Inverts (k : DerivedKey) (p q e : Nat) : Prop where
  d_lt : k.d < (p - 1) * (q - 1)
  mul_d : e * k.d % ((p - 1) * (q - 1)) = 1
  dp_eq : k.dp = k.d % (p - 1)
  dq_eq : k.dq = k.d % (q - 1)
  qinv_lt : k.qinv < p
  mul_qinv : q * k.qinv % p = 1

section keyDerive

variable {p q e : Nat}

/-- The modulus phi of an accepted key is at least 2, since p and q are not both 2 (44_crt.md R142). -/
theorem KeyDerives.one_lt_phi (h : KeyDerives p q e) : 1 < (p - 1) * (q - 1) := by
  obtain ⟨hp, hq, -, hqp⟩ := h
  obtain hp' | rfl := Nat.lt_or_eq_of_le hp
  · exact one_lt_mul_of_lt_of_le (by omega) (by omega)
  · obtain hq' | rfl := Nat.lt_or_eq_of_le hq
    · exact one_lt_mul_of_le_of_lt (by omega) (by omega)
    · cases hqp

/-- p or q below 2 is tested first, and is KEY_INVALID (44_crt.md R142). -/
theorem keyDerive_of_lt_two (e : Nat) (h : p < 2 ∨ q < 2) : keyDerive p q e = .error .keyInvalid := if_pos h

/-- An accepted key derives d, dp, dq and qinv (44_crt.md R141). -/
theorem keyDerive_of_keyDerives (h : KeyDerives p q e) : ∃ k, keyDerive p q e = .ok k ∧ k.Inverts p q e := by
  have hphi := h.one_lt_phi
  obtain ⟨hp, hq, hg, hqp⟩ := h
  have hphi0 : (p - 1) * (q - 1) ≠ 0 := Nat.ne_zero_of_lt hphi
  have hp0 : p ≠ 0 := Nat.ne_zero_of_lt hp
  have hmul_d := (mul_residue_extGcd_mod hphi0 hg).trans (Nat.mod_eq_of_lt hphi)
  have hmul_qinv := (mul_residue_extGcd_mod hp0 hqp).trans (Nat.mod_eq_of_lt hp)
  rw [keyDerive, if_neg (by omega), modInv_of_coprime hphi0 hg, modInv_of_coprime hp0 hqp]
  exact ⟨_, rfl, residue_lt _ hphi0, hmul_d, rfl, rfl, residue_lt _ hp0, hmul_qinv⟩

/-- With p and q at least 2, either failing gcd is NO_MODINV (44_crt.md R142). -/
theorem keyDerive_of_not_coprime (hp : 2 ≤ p) (hq : 2 ≤ q)
    (h : Nat.gcd e ((p - 1) * (q - 1)) ≠ 1 ∨ Nat.gcd q p ≠ 1) : keyDerive p q e = .error .noModinv := by
  have hphi : (p - 1) * (q - 1) ≠ 0 := Nat.mul_ne_zero (by omega) (by omega)
  have hp0 : p ≠ 0 := Nat.ne_zero_of_lt hp
  rw [keyDerive, if_neg (by omega)]
  by_cases hg : Nat.gcd e ((p - 1) * (q - 1)) = 1
  · rw [modInv_of_coprime hphi hg, modInv_of_not_coprime hp0 (h.resolve_left (absurd hg))]
  · rw [modInv_of_not_coprime hphi hg]

/-- Only an accepted key derives (44_crt.md R142). -/
theorem keyDerives_of_keyDerive_eq_ok {k : DerivedKey} (h : keyDerive p q e = .ok k) : KeyDerives p q e := by
  by_contra hk
  by_cases hpq : p < 2 ∨ q < 2
  · rw [keyDerive_of_lt_two e hpq] at h
    cases h
  · rw [keyDerive_of_not_coprime (by omega) (by omega) (by unfold KeyDerives at hk; omega)] at h
    cases h

/-- Whatever key derives is the one of 44_crt.md R141. -/
theorem inverts_of_keyDerive_eq_ok {k : DerivedKey} (h : keyDerive p q e = .ok k) : k.Inverts p q e := by
  obtain ⟨k', hk', hinv⟩ := keyDerive_of_keyDerives (keyDerives_of_keyDerive_eq_ok h)
  cases h.symm.trans hk'
  exact hinv

end keyDerive

/-- KEYDERIVE completes with the derived key in its result registers (44_crt.md R142). -/
theorem keyderive_succeeds {s : State} {k : DerivedKey} (h : keyDerive s.p s.q s.e = .ok k) :
    Succeeds .keyderive s { res0 := ofU64 k.d, res1 := ofU64 k.dp, res2 := ofU64 k.dq, res3 := ofU64 k.qinv } := by
  apply succeeds_of_runOf_eq_ok
  rw [runOf, runKeyderive, keyDeriveLatched, u32k, u32k, u32k, h]

/-- KEYDERIVE fails with KeyDerive's error (44_crt.md R142, R148). -/
theorem keyderive_fails {s : State} {err : CmdError} (h : keyDerive s.p s.q s.e = .error err) :
    FailsWith .keyderive s err := by
  apply failsWith_of_runOf_eq_error
  rw [runOf, runKeyderive, keyDeriveLatched, u32k, u32k, u32k, h]

/-- A value below the product of the latched primes fits in a result register (44_crt.md R145). -/
theorem State.p_mul_q_lt (s : State) : s.p * s.q < 2 ^ 64 :=
  calc s.p * s.q
    _ < 2 ^ 32 * 2 ^ 32 := Nat.mul_lt_mul'' (BitVec.isLt _) (BitVec.isLt _)
    _ = 2 ^ 64 := by decide

/-- p itself fits in a result register, and so does every value below it (44_crt.md R145). -/
theorem State.p_lt (s : State) : s.p < 2 ^ 64 := Nat.lt_trans (BitVec.isLt _) (by decide)

/-- Settles O43: an accepted key has both inverses and phi is below 2^64, so the registers hold the derived values; the
two error clauses follow the order of KeyDerive's tests. -/
theorem keyderiveDerivesTheKeyOrFails : Obligations.KeyderiveDerivesTheKeyOrFails := by
  intro s
  refine ⟨fun h => ?_, fun h => keyderive_fails (keyDerive_of_lt_two _ h),
    fun hp hq h => keyderive_fails (keyDerive_of_not_coprime hp hq h)⟩
  obtain ⟨k, hk, hinv⟩ := keyDerive_of_keyDerives h
  have hd : k.d < 2 ^ 64 :=
    hinv.d_lt.trans_le ((Nat.mul_le_mul (Nat.sub_le _ _) (Nat.sub_le _ _)).trans s.p_mul_q_lt.le)
  have hdp : k.dp < 2 ^ 64 := by rw [hinv.dp_eq]; exact (Nat.mod_le _ _).trans_lt hd
  have hdq : k.dq < 2 ^ 64 := by rw [hinv.dq_eq]; exact (Nat.mod_le _ _).trans_lt hd
  have hqinv : k.qinv < 2 ^ 64 := hinv.qinv_lt.trans s.p_lt
  refine ⟨_, _, _, _, keyderive_succeeds hk, ?_⟩
  rw [toNat_ofU64 hd, toNat_ofU64 hdp, toNat_ofU64 hdq, toNat_ofU64 hqinv]
  exact ⟨hinv.d_lt, hinv.mul_d, hinv.dp_eq, hinv.dq_eq, hinv.qinv_lt, hinv.mul_qinv⟩

/-! ### The CRT recombination -/

/-- The two 32-bit halves of the ciphertext vector make up its integer (44_crt.md R143, step 1). -/
theorem ciphertextOf_eq (v : Word) : ciphertextOf v = v.toNat := by
  have hv := v.isLt
  have hlow : bits v.toNat 31 0 < 2 ^ 32 := bits_lt _ 31 0
  rw [ciphertextOf, u64, ← Nat.shiftLeft_add_eq_or_of_lt hlow, bits, bits, Nat.shiftLeft_eq,
    Nat.shiftRight_eq_div_pow]
  omega

/-- `r` recombines the residues x modulo p and y modulo q: M is below p*q with these residues, which are m1 and m2, and
M = h*q + m2 with h below p (44_crt.md R143, R145). -/
structure CrtResult.Recombines (r : CrtResult) (p q x y : Nat) : Prop where
  m_lt : r.m < p * q
  mod_p : r.m % p = x
  mod_q : r.m % q = y
  m1_eq : r.m1 = x
  m2_eq : r.m2 = y
  h_lt : r.h < p
  m_eq : r.m = r.h * q + r.m2

section recombine

variable {p q qinv m1 m2 : Nat}

/-- Adding p when m1 < m2 changes nothing: h is congruent to (m1 - m2) * qinv in both branches (44_crt.md R147). -/
theorem recombine_h_modEq (hp : p ≠ 0) :
    ((recombine p q qinv m1 m2).h : Int) ≡ ((m1 : Int) - m2) * qinv [ZMOD p] := by
  have hres (t : Int) : (residue t p : Int) ≡ t [ZMOD p] := residue_cast t hp ▸ Int.mod_modEq t p
  refine (hres _).trans ?_
  split
  · exact (Int.ModEq.add_right_cancel' 0 (by simp)).mul_right _
  · rfl

/-- M = h*q + m2 has the residues m1 and m2, because qinv inverts q modulo p (44_crt.md R143). -/
theorem recombines_recombine (hm1 : m1 < p) (hm2 : m2 < q) (hqinv : q * qinv % p = 1) :
    (recombine p q qinv m1 m2).Recombines p q m1 m2 := by
  have hp : p ≠ 0 := Nat.ne_zero_of_lt hm1
  have hh : (recombine p q qinv m1 m2).h < p := residue_lt _ hp
  have hm : (recombine p q qinv m1 m2).m = (recombine p q qinv m1 m2).h * q + m2 := rfl
  refine ⟨?m_lt, ?mod_p, ?mod_q, rfl, rfl, hh, rfl⟩
  case m_lt =>
    calc (recombine p q qinv m1 m2).m
      _ < ((recombine p q qinv m1 m2).h + 1) * q := by rw [hm]; linarith
      _ ≤ p * q := Nat.mul_le_mul_right q hh
  case mod_p =>
    have hinv : (q : Int) * qinv ≡ 1 [ZMOD p] :=
      mod_cast (hqinv ▸ (Nat.mod_modEq (q * qinv) p).symm : q * qinv ≡ 1 [MOD p])
    have hmod : ((recombine p q qinv m1 m2).m : Int) ≡ m1 [ZMOD p] :=
      calc ((recombine p q qinv m1 m2).m : Int)
        _ = (recombine p q qinv m1 m2).h * q + m2 := by rw [hm]; push_cast; rfl
        _ ≡ (m1 - m2) * qinv * q + m2 [ZMOD p] := ((recombine_h_modEq hp).mul_right _).add_right _
        _ = (m1 - m2) * (q * qinv) + m2 := by ring
        _ ≡ (m1 - m2) * 1 + m2 [ZMOD p] := (hinv.mul_left _).add_right _
        _ = m1 := by ring
    exact Nat.mod_eq_of_modEq (Int.natCast_modEq_iff.mp hmod) hm1
  case mod_q => rw [hm, Nat.mul_add_mod', Nat.mod_eq_of_lt hm2]

end recombine

section crtDecrypt

variable {p q e : Nat}

/-- With a derived key, CrtDecrypt recombines the two powers (44_crt.md R143). -/
theorem crtDecrypt_of_keyDerive_eq_ok (c : Nat) {k : DerivedKey} (hk : keyDerive p q e = .ok k) :
    ∃ r, crtDecrypt c p q e = .ok r ∧ r.Recombines p q (c ^ k.dp % p) (c ^ k.dq % q) := by
  obtain ⟨hp, hq, -, -⟩ := keyDerives_of_keyDerive_eq_ok hk
  have hm1 : c ^ k.dp % p < p := Nat.mod_lt _ (by omega)
  have hm2 : c ^ k.dq % q < q := Nat.mod_lt _ (by omega)
  refine ⟨_, ?_, recombines_recombine hm1 hm2 (inverts_of_keyDerive_eq_ok hk).mul_qinv⟩
  simp only [crtDecrypt, hk, modPow_of_ne_zero c k.dp (m := p) (by omega), modPow_of_ne_zero c k.dq (m := q) (by omega)]

/-- CrtDecrypt ends with KeyDerive's error (44_crt.md R148). -/
theorem crtDecrypt_of_keyDerive_eq_error (c : Nat) {err : CmdError} (h : keyDerive p q e = .error err) :
    crtDecrypt c p q e = .error err := by
  rw [crtDecrypt, h]

end crtDecrypt

/-- CRTDEC with a derived key completes, its registers holding a recombination of the two powers (44_crt.md R143). -/
theorem crtdec_succeeds {s : State} {k : DerivedKey} (hk : keyDerive s.p s.q s.e = .ok k) :
    ∃ m m1 m2 h : Word, Succeeds .crtdec s { res0 := m, res1 := m1, res2 := m2, res3 := h } ∧
      CrtResult.Recombines { m := m.toNat, m1 := m1.toNat, m2 := m2.toNat, h := h.toNat } s.p s.q
        (s.a ^ k.dp % s.p) (s.a ^ k.dq % s.q) := by
  obtain ⟨r, hr, hrec⟩ := crtDecrypt_of_keyDerive_eq_ok s.a hk
  have hm : r.m < 2 ^ 64 := hrec.m_lt.trans s.p_mul_q_lt
  have hm1 : r.m1 < 2 ^ 64 := by rw [hrec.m1_eq, ← hrec.mod_p]; exact (Nat.mod_le _ _).trans_lt hm
  have hm2 : r.m2 < 2 ^ 64 := by rw [hrec.m2_eq, ← hrec.mod_q]; exact (Nat.mod_le _ _).trans_lt hm
  have hh : r.h < 2 ^ 64 := hrec.h_lt.trans s.p_lt
  refine ⟨ofU64 r.m, ofU64 r.m1, ofU64 r.m2, ofU64 r.h, succeeds_of_runOf_eq_ok ?_, ?_⟩
  · rw [runOf, runCrtdec, crtDecryptLatched, ciphertextOf_eq, u32k, u32k, u32k, hr]
  · rwa [toNat_ofU64 hm, toNat_ofU64 hm1, toNat_ofU64 hm2, toNat_ofU64 hh]

/-- CRTDEC fails with KeyDerive's error (44_crt.md R148). -/
theorem crtdec_fails {s : State} {err : CmdError} (h : keyDerive s.p s.q s.e = .error err) :
    FailsWith .crtdec s err := by
  apply failsWith_of_runOf_eq_error
  rw [runOf, runCrtdec, crtDecryptLatched, u32k, u32k, u32k, crtDecrypt_of_keyDerive_eq_error _ h]

/-- Settles O45: the plaintext has the residues of the recombination, dp and dq are residues of d, and the errors are
KeyDerive's. -/
theorem crtdecRecombinesTheResidues : Obligations.CrtdecRecombinesTheResidues := by
  intro s
  refine ⟨fun hkey => ?_, fun h => crtdec_fails (keyDerive_of_lt_two _ h),
    fun hp hq h => crtdec_fails (keyDerive_of_not_coprime hp hq h)⟩
  obtain ⟨k, hk, hinv⟩ := keyDerive_of_keyDerives hkey
  obtain ⟨m, m1, m2, h, hrun, hrec⟩ := crtdec_succeeds hk
  have hmod_p : m.toNat % s.p = s.a ^ (k.d % (s.p - 1)) % s.p := hinv.dp_eq ▸ hrec.mod_p
  have hmod_q : m.toNat % s.q = s.a ^ (k.d % (s.q - 1)) % s.q := hinv.dq_eq ▸ hrec.mod_q
  exact ⟨m, m1, m2, h, hrun, ⟨hrec.m_lt, k.d, hinv.d_lt, hinv.mul_d, hmod_p, hmod_q⟩,
    hrec.m1_eq.trans hrec.mod_p.symm, hrec.m2_eq.trans hrec.mod_q.symm, hrec.h_lt, hrec.m_eq⟩

/-! ### RSA -/

section rsa

variable {p q x y : Nat}

/-- Exponents of at least 1 that are congruent modulo p - 1 give congruent powers modulo a prime p, also of multiples of
p (44_crt.md R146). -/
theorem pow_modEq_pow_of_prime (hp : p.Prime) (hy : 1 ≤ y) (hyx : y ≤ x) (h : y ≡ x [MOD p - 1]) (a : Nat) :
    a ^ x ≡ a ^ y [MOD p] := by
  have hdvd : p - 1 ∣ x - y := (Nat.modEq_iff_dvd' hyx).mp h
  exact_mod_cast Int.ModEq.pow_eq_pow hp hdvd hyx hy a

/-- An exponent congruent to 1 modulo phi leaves a number's residue modulo p*q (44_crt.md R146). -/
theorem pow_modEq_self_of_primes (hp : p.Prime) (hq : q.Prime) (hne : p ≠ q) (hx : 1 ≤ x)
    (h : 1 ≡ x [MOD (p - 1) * (q - 1)]) (a : Nat) : a ^ x ≡ a [MOD p * q] := by
  refine (Nat.modEq_and_modEq_iff_modEq_mul ((Nat.coprime_primes hp hq).mpr hne)).mp ⟨?_, ?_⟩
  · simpa using pow_modEq_pow_of_prime hp le_rfl hx (h.of_mul_right _) a
  · simpa using pow_modEq_pow_of_prime hq le_rfl hx (h.of_mul_left _) a

end rsa

/-- Settles O46: by Fermat the exponents dp and dq give the residues of C^d modulo p and q, and M, being below p*q, is
determined by them. -/
theorem crtdecIsRsaDecryption : Obligations.CrtdecIsRsaDecryption := by
  intro s k hp hq hne hk hdp hdq
  have hinv := inverts_of_keyDerive_eq_ok hk
  obtain ⟨m, m1, m2, h, hrun, hrec⟩ := crtdec_succeeds hk
  have hpow_p : s.a ^ k.d ≡ s.a ^ k.dp [MOD s.p] :=
    pow_modEq_pow_of_prime hp hdp (hinv.dp_eq ▸ Nat.mod_le _ _) (hinv.dp_eq ▸ Nat.mod_modEq _ _) _
  have hpow_q : s.a ^ k.d ≡ s.a ^ k.dq [MOD s.q] :=
    pow_modEq_pow_of_prime hq hdq (hinv.dq_eq ▸ Nat.mod_le _ _) (hinv.dq_eq ▸ Nat.mod_modEq _ _) _
  have hmod : m.toNat ≡ s.a ^ k.d [MOD s.p * s.q] :=
    (Nat.modEq_and_modEq_iff_modEq_mul ((Nat.coprime_primes hp hq).mpr hne)).mp
      ⟨hrec.mod_p.trans hpow_p.symm, hrec.mod_q.trans hpow_q.symm⟩
  exact ⟨m, m1, m2, h, hrun, (Nat.mod_eq_of_lt hrec.m_lt).symm.trans hmod⟩

/-! ### The reset key -/

/-- An element whose order is n - 1 shows n to be prime: its power n - 1 is 1, and no power (n - 1) / r is, for the
primes r of which n - 1 is the product (Lucas' test). -/
theorem prime_of_primitiveRoot {n : Nat} (a : ZMod n) {rs : List Nat} (hrs : ∀ r ∈ rs, r.Prime)
    (hprod : rs.prod = n - 1) (hpow : a ^ (n - 1) = 1) (hne : ∀ r ∈ rs, a ^ ((n - 1) / r) ≠ 1) : n.Prime := by
  refine lucas_primality n a hpow fun r hr hdvd => hne r ?_
  exact mem_list_primes_of_dvd_prod hr.prime (fun q hq => (hrs q hq).prime) (hprod ▸ hdvd)

/-- p of the reset key is prime (44_crt.md R140): 2 is a primitive root. -/
theorem resetP_prime : Nat.Prime 2795287379 := by
  refine prime_of_primitiveRoot 2 (rs := [2, 13, 13, 919, 8999]) (by norm_num) (by norm_num) ?_ ?_
  · norm_num; reduce_mod_char
  · norm_num; reduce_mod_char; decide

/-- q of the reset key is prime (44_crt.md R140): 13 is a primitive root. -/
theorem resetQ_prime : Nat.Prime 3544934711 := by
  refine prime_of_primitiveRoot 13 (rs := [2, 5, 313, 1132567]) (by norm_num) (by norm_num) ?_ ?_
  · norm_num; reduce_mod_char
  · norm_num; reduce_mod_char; decide

/-- The values the reset key derives (44_crt.md R140). -/
def resetDerivedKey : DerivedKey :=
  { d := 0x283FADB634C4D129, dp := 0x38E45635, dq := 0x19C48377, qinv := 0x6B057C81 }

/-- The reset key's values are what KeyDerive computes (44_crt.md R140, R141). -/
theorem keyDerive_resetKey : keyDerive 2795287379 3544934711 41 = .ok resetDerivedKey := by decide

/-- A command that latched the reset key derives its values (44_crt.md R140). -/
theorem keyDerive_of_resetKey {s : State}
    (h : s.engine.latch.key = { kp := 2795287379#32, kq := 3544934711#32, ke := 41#32 }) :
    keyDerive s.p s.q s.e = .ok resetDerivedKey := by
  rw [State.p, State.q, State.e, h]
  exact keyDerive_resetKey

/-- Settles O44: the primes have their primitive roots, and KeyDerive on the reset key evaluates to the table. -/
theorem resetKeyIsAsTabled : Obligations.ResetKeyIsAsTabled :=
  ⟨resetP_prime, resetQ_prime, by decide, by decide, by decide,
    fun _ h => keyderive_succeeds (keyDerive_of_resetKey h)⟩

/-- Settles O47: decryption raises M0^41 to d, and 41 * d is congruent to 1 modulo phi, so M0, which is below n, comes
back. -/
theorem resetKeyRoundTrip : Obligations.ResetKeyRoundTrip := by
  intro s s' ha hb hc hkey
  have hs'p : s'.p = 2795287379 := by rw [State.p, hkey]; rfl
  have hs'q : s'.q = 3544934711 := by rw [State.q, hkey]; rfl
  have hn : s'.p * s'.q = s.c := by rw [hs'p, hs'q, hc]
  have hp : s'.p.Prime := hs'p ▸ resetP_prime
  have hq : s'.q.Prime := hs'q ▸ resetQ_prime
  have hne : s'.p ≠ s'.q := by omega
  have hk := keyDerive_of_resetKey hkey
  obtain ⟨m, m1, m2, h, hdec, hm⟩ := crtdecIsRsaDecryption s' resetDerivedKey hp hq hne hk (by decide) (by decide)
  obtain ⟨c, henc, hcval, -⟩ := modpowComputesThePower s (by omega)
  refine ⟨c, henc, fun hopa => ⟨m1, m2, h, ?_⟩⟩
  have hexp : 1 ≡ s.b * resetDerivedKey.d [MOD (s'.p - 1) * (s'.q - 1)] := by
    rw [hb, hs'p, hs'q]; decide
  suffices hmeq : m = s.engine.latch.operands.opa from hmeq ▸ hdec
  apply BitVec.eq_of_toNat_eq
  calc m.toNat
    _ = (s.a ^ s.b % (s'.p * s'.q)) ^ resetDerivedKey.d % (s'.p * s'.q) := by rw [hm, State.a, hopa, hcval, hn]
    _ = s.a ^ (s.b * resetDerivedKey.d) % (s'.p * s'.q) := by rw [← Nat.pow_mod, ← pow_mul]
    _ = s.a % (s'.p * s'.q) := pow_modEq_self_of_primes hp hq hne (by rw [hb]; decide) hexp s.a
    _ = s.a := Nat.mod_eq_of_lt (by omega)

end Sys2Proof.Machine

namespace Sys2Proof.Machine

/-! ### PW_LUT and the password's characters -/

/-- The symbol of a field is the alphabet's entry at the field's value (10_state.md R43). -/
theorem getElem?_pwAlphabet (f : BitVec 3) : pwAlphabet[f.toNat]? = some (pwLut f) := List.getElem?_eq_getElem _

/-- PW_LUT answers symbols only (45_password_encoder.md R163). -/
theorem pwLut_mem (f : BitVec 3) : pwLut f ∈ pwAlphabet := List.getElem_mem _

/-- The eight symbols of PW_ALPHABET differ (10_state.md R43). -/
theorem pwLut_injective : Function.Injective pwLut := by unfold Function.Injective; decide

/-- Character i is the symbol of field i (45_password_encoder.md R160). -/
theorem pwChars_eq (v : Word) : pwChars v = (List.range 8).map fun i => pwLut (pwField v i) := rfl

/-- The bytes of the password are its characters, the first in the lowest byte (45_password_encoder.md R160). -/
theorem bytesOf_pwEncode (v : Word) : bytesOf (pwEncode v) = pwChars v := bytesOf_packBytes rfl

/-- Byte i of the password is the symbol of field i (45_password_encoder.md R160). -/
theorem byteOf_pwEncode (v : Word) {i : Nat} (hi : i < 8) : byteOf (pwEncode v) i = pwLut (pwField v i) := by
  rw [pwEncode, byteOf_packBytes _ hi, pwChars_eq]
  simp [hi]

/-- Every byte of a password is a symbol (45_password_encoder.md R163). -/
theorem mem_pwAlphabet_of_mem_bytesOf_pwEncode {v : Word} {c : Byte} (h : c ∈ bytesOf (pwEncode v)) :
    c ∈ pwAlphabet := by
  rw [bytesOf_pwEncode, pwChars_eq] at h
  obtain ⟨i, -, rfl⟩ := List.mem_map.mp h
  exact pwLut_mem _

/-! ### The fields of a vector -/

/-- A field as a number (45_password_encoder.md R160). -/
theorem toNat_pwField (v : Word) (i : Nat) :
    (pwField v i).toNat = ((v.toNat % 2 ^ 32) >>> (21 - 3 * i)) % 8 := by
  simp [pwField]

/-- A field lies in the low 24 bits (45_password_encoder.md R161, R162). -/
theorem pwField_eq_extractLsb' (v : Word) (i : Nat) :
    pwField v i = (v.extractLsb' 0 24).extractLsb' (21 - 3 * i) 3 := by
  ext j hj
  have hword : 21 - 3 * i + j < 32 := by omega
  simp [pwField, hword]

/-- Bit k of the low 24 bits is bit k % 3 of field 7 - k / 3 (45_password_encoder.md R161, R162). -/
theorem getLsbD_pwField_eq_low24 (v : Word) {k : Nat} (hk : k < 24) :
    (pwField v (7 - k / 3)).getLsbD (k % 3) = (v.extractLsb' 0 24).getLsbD k := by
  have hpos : 21 - 3 * (7 - k / 3) + k % 3 = k := by omega
  have hbit : k % 3 < 3 := Nat.mod_lt k (by decide)
  rw [pwField_eq_extractLsb', BitVec.getLsbD_extractLsb', hpos, decide_eq_true hbit, Bool.true_and]

/-- The fields and the low 24 bits determine each other (45_password_encoder.md R162). -/
theorem forall_pwField_eq_iff {v v' : Word} :
    (∀ i < 8, pwField v i = pwField v' i) ↔ v.extractLsb' 0 24 = v'.extractLsb' 0 24 := by
  constructor
  · intro h
    apply BitVec.eq_of_getLsbD_eq
    intro k hk
    rw [← getLsbD_pwField_eq_low24 v hk, ← getLsbD_pwField_eq_low24 v' hk, h (7 - k / 3) (by omega)]
  · intro h i _
    rw [pwField_eq_extractLsb', pwField_eq_extractLsb', h]

/-- Two vectors have the same password exactly when they have the same fields (45_password_encoder.md R162). -/
theorem pwEncode_eq_iff {v v' : Word} : pwEncode v = pwEncode v' ↔ ∀ i < 8, pwField v i = pwField v' i :=
  calc pwEncode v = pwEncode v'
    _ ↔ pwChars v = pwChars v' :=
      ⟨fun h => by rw [← bytesOf_pwEncode, h, bytesOf_pwEncode], congrArg packBytes⟩
    _ ↔ ∀ i ∈ List.range 8, pwLut (pwField v i) = pwLut (pwField v' i) := by
      rw [pwChars_eq, pwChars_eq, List.map_inj_left]
    _ ↔ ∀ i < 8, pwField v i = pwField v' i := by
      simp only [List.mem_range, pwLut_injective.eq_iff]

/-! ### PWENC and DECODEPW -/

/-- Settles O48: the results are those of PwEncode, whose byte i is the symbol of field i. -/
theorem pwencMapsTheEightFields : Obligations.PwencMapsTheEightFields := by
  intro s
  refine ⟨pwEncode s.engine.latch.operands.opa, succeeds_of_runOf_eq_ok rfl, fun i hi => ?_⟩
  rw [byteOf_pwEncode _ hi, ← getElem?_pwAlphabet, toNat_pwField, State.a]

/-- Settles O49: the symbols differ, and the fields partition the low 24 bits. -/
theorem passwordDeterminesTheLow24Bits : Obligations.PasswordDeterminesTheLow24Bits :=
  fun _ _ => pwEncode_eq_iff.trans forall_pwField_eq_iff

/-- A command that ends with ERR clear has written the results of its pseudocode on the latch
(60_exceptions.md R181, R182). -/
theorem runOf_eq_ok_of_exec {i : Instr} {s t : State} (h : exec i s = .next t) (herr : t.status.err = false) :
    runOf i s.engine.latch = .ok t.results := by
  rw [exec_eq_finish] at h
  obtain ⟨r, hr, hf⟩ | ⟨e, -, hf⟩ := finish_cases (runOf i s.engine.latch) s <;> cases hf.symm.trans h
  · exact hr
  · cases herr

/-- DECODEPW succeeds with the password of the plaintext its stages produce (46_decode_password.md R170). -/
theorem exists_stages_of_decodePassword_eq_ok {a b : Word} {k : KeyRegs} {r : ResultRegs}
    (h : decodePassword a b k = .ok r) :
    ∃ c x, codeDecode a b = .ok c ∧ crtDecryptLatched c k = .ok x ∧
      r = { res0 := pwEncode (ofU64 x.m), res1 := c, res2 := ofU64 x.m, res3 := 0 } := by
  cases hc : codeDecode a b with
  | error e => simp [decodePassword, hc] at h
  | ok c =>
    cases hx : crtDecryptLatched c k with
    | error e => simp [decodePassword, hc, hx] at h
    | ok x =>
      simp only [decodePassword, hc, hx, Except.ok.injEq] at h
      exact ⟨c, x, rfl, hx, h.symm⟩

/-- RES0 of either command, where it succeeds, is a password (45_password_encoder.md R160,
46_decode_password.md R170). -/
theorem exists_res0_eq_pwEncode {i : Instr} {l : Latch} {r : ResultRegs} (hi : i = .pwenc ∨ i = .decodepw)
    (h : runOf i l = .ok r) : ∃ v, r.res0 = pwEncode v := by
  obtain rfl | rfl := hi
  · rw [runOf, runPwenc, Except.ok.injEq] at h
    exact ⟨l.operands.opa, by rw [← h]⟩
  · obtain ⟨_, x, -, -, rfl⟩ := exists_stages_of_decodePassword_eq_ok h
    exact ⟨ofU64 x.m, rfl⟩

/-- Settles O50: on success either command leaves a password in RES0, and its bytes are symbols. -/
theorem passwordCharactersAreInTheAlphabet : Obligations.PasswordCharactersAreInTheAlphabet := by
  intro i s t hi h _ herr c hc
  obtain ⟨v, hv⟩ := exists_res0_eq_pwEncode hi (runOf_eq_ok_of_exec h herr)
  rw [hv] at hc
  exact mem_pwAlphabet_of_mem_bytesOf_pwEncode hc

end Sys2Proof.Machine

namespace Sys2Proof.Machine

/-! ### The stages of DECODEPW -/

section decodePassword

variable {a b c : Word} {k : KeyRegs} {x : CrtResult} {err : CmdError}

/-- Where both stages that can fail succeed, DecodePassword answers the password of M, C and M
(46_decode_password.md R170, R171). -/
theorem decodePassword_of_stages (hc : codeDecode a b = .ok c) (hx : crtDecryptLatched c k = .ok x) :
    decodePassword a b k = .ok { res0 := pwEncode (ofU64 x.m), res1 := c, res2 := ofU64 x.m, res3 := 0 } := by
  simp only [decodePassword, hc, hx]

/-- The code decoder's error ends DecodePassword, whatever the key (60_exceptions.md R185). -/
theorem decodePassword_of_codeDecode_eq_error (hc : codeDecode a b = .error err) :
    decodePassword a b k = .error err := by
  simp only [decodePassword, hc]

/-- Past the code decoder, CrtDecrypt's error ends DecodePassword (60_exceptions.md R185). -/
theorem decodePassword_of_crtDecryptLatched_eq_error (hc : codeDecode a b = .ok c)
    (hx : crtDecryptLatched c k = .error err) : decodePassword a b k = .error err := by
  simp only [decodePassword, hc, hx]

end decodePassword

/-- CrtDecrypt on a running command's key is CrtDecrypt of the vector's integer under its p, q and e (44_crt.md R143,
30_encoding.md R85). -/
theorem crtDecryptLatched_key (s : State) (v : Word) :
    crtDecryptLatched v s.engine.latch.key = crtDecrypt v.toNat s.p s.q s.e := by
  rw [crtDecryptLatched, ciphertextOf_eq]
  rfl

/-- The recombination of the powers to dp and dq is the CRT plaintext (44_crt.md R143, R145). -/
theorem CrtResult.Recombines.crtPlaintext {r : CrtResult} {k : DerivedKey} {c p q e : Nat}
    (hrec : r.Recombines p q (c ^ k.dp % p) (c ^ k.dq % q)) (hinv : k.Inverts p q e) : CrtPlaintext c p q e r.m :=
  ⟨hrec.m_lt, k.d, hinv.d_lt, hinv.mul_d, hinv.dp_eq ▸ hrec.mod_p, hinv.dq_eq ▸ hrec.mod_q⟩

/-- Under an accepted key every ciphertext has a CRT plaintext, which CrtDecrypt finds (44_crt.md R143, R145). -/
theorem exists_crtDecryptLatched_of_keyDerives {s : State} (h : KeyDerives s.p s.q s.e) (v : Word) :
    ∃ x, crtDecryptLatched v s.engine.latch.key = .ok x ∧ CrtPlaintext v.toNat s.p s.q s.e x.m := by
  obtain ⟨k, hk, hinv⟩ := keyDerive_of_keyDerives h
  obtain ⟨x, hx, hrec⟩ := crtDecrypt_of_keyDerive_eq_ok v.toNat hk
  exact ⟨x, (crtDecryptLatched_key s v).trans hx, hrec.crtPlaintext hinv⟩

/-- DECODEPW of a valid code fails with KeyDerive's error (46_decode_password.md R170, 44_crt.md R148). -/
theorem decodepw_fails_of_keyDerive_eq_error {s : State} {err : CmdError}
    (hcode : ValidCode s.engine.latch.operands.opa s.engine.latch.operands.opb)
    (hkey : keyDerive s.p s.q s.e = .error err) : FailsWith .decodepw s err :=
  failsWith_of_runOf_eq_error <| decodePassword_of_crtDecryptLatched_eq_error (codeDecode_of_validCode hcode)
    ((crtDecryptLatched_key s _).trans (crtDecrypt_of_keyDerive_eq_error _ hkey))

/-- Settles O51: the code decodes to its value, the key derives, and M, being below p*q, fits in its register. -/
theorem decodepwRunsTheWholePipeline : Obligations.DecodepwRunsTheWholePipeline := by
  intro s hcode hkey
  obtain ⟨x, hx, hplain⟩ := exists_crtDecryptLatched_of_keyDerives hkey
    (ofU64 (codeValue s.engine.latch.operands.opa s.engine.latch.operands.opb))
  have ⟨hlt, _⟩ := hplain
  have hm : (ofU64 x.m).toNat = x.m := toNat_ofU64 (hlt.trans s.p_mul_q_lt)
  refine ⟨_, ofU64 x.m, succeeds_of_runOf_eq_ok (decodePassword_of_stages (codeDecode_of_validCode hcode) hx),
    toNat_ofU64 (codeValue_lt hcode), ?_⟩
  rwa [hm]

/-- Settles O52: an invalid code ends the chain at its first stage; past it the errors are KeyDerive's, in its order. -/
theorem decodepwFailsInStageOrder : Obligations.DecodepwFailsInStageOrder := by
  intro s
  refine ⟨fun hcode => ?invalidSymbol, fun hcode => ⟨fun h => ?keyInvalid, fun hp hq h => ?noModinv⟩⟩
  case invalidSymbol =>
    exact failsWith_of_runOf_eq_error (decodePassword_of_codeDecode_eq_error (codeDecode_of_not_validCode hcode))
  case keyInvalid => exact decodepw_fails_of_keyDerive_eq_error hcode (keyDerive_of_lt_two _ h)
  case noModinv => exact decodepw_fails_of_keyDerive_eq_error hcode (keyDerive_of_not_coprime hp hq h)

/-! ### DECODEPW as a sequence of commands -/

/-- CODEDEC succeeds with the decoder's answer in RES0 (40_code_decoder.md R100). -/
theorem codeDecode_eq_ok_of_runCodedec_eq_ok {l : Latch} {r : ResultRegs} (h : runCodedec l = .ok r) :
    codeDecode l.operands.opa l.operands.opb = .ok r.res0 := by
  unfold runCodedec at h
  cases hc : codeDecode l.operands.opa l.operands.opb with
  | error e => simp [hc] at h
  | ok c =>
    simp only [hc, Except.ok.injEq] at h
    rw [← h]

/-- CRTDEC succeeds with CrtDecrypt's M in RES0 (44_crt.md R144). -/
theorem exists_crtDecryptLatched_of_runCrtdec_eq_ok {l : Latch} {r : ResultRegs} (h : runCrtdec l = .ok r) :
    ∃ x, crtDecryptLatched l.operands.opa l.key = .ok x ∧ r.res0 = ofU64 x.m := by
  unfold runCrtdec at h
  cases hx : crtDecryptLatched l.operands.opa l.key with
  | error e => simp [hx] at h
  | ok x =>
    simp only [hx, Except.ok.injEq] at h
    exact ⟨x, rfl, by rw [← h]⟩

/-- PWENC leaves the password of its operand in RES0 (45_password_encoder.md R160). -/
theorem res0_of_exec_pwenc {s t : State} (h : exec .pwenc s = .next t) :
    t.results.res0 = pwEncode s.engine.latch.operands.opa := by
  have hnext : exec .pwenc s = .next (s.complete _) := exec_eq_finish .pwenc s
  cases hnext.symm.trans h
  rfl

/-- Settles O53: the three commands' RES0 are C, M and the password of M, the three results of DECODEPW. -/
theorem decodepwEqualsTheThreeCommands : Obligations.DecodepwEqualsTheThreeCommands := by
  intro s s2 s3 t1 t2 t3 _ hcodedec herr1 _ hopa2 hkey2 hcrtdec herr2 hopa3 hpwenc
  have hc := codeDecode_eq_ok_of_runCodedec_eq_ok (runOf_eq_ok_of_exec hcodedec herr1)
  obtain ⟨x, hx, hm⟩ := exists_crtDecryptLatched_of_runCrtdec_eq_ok (runOf_eq_ok_of_exec hcrtdec herr2)
  have hpw : t3.results.res0 = pwEncode (ofU64 x.m) := by rw [res0_of_exec_pwenc hpwenc, hopa3, hm]
  rw [hopa2, hkey2] at hx
  rw [hpw, hm]
  exact succeeds_of_runOf_eq_ok (decodePassword_of_stages hc hx)

end Sys2Proof.Machine

namespace Sys2Proof.Machine

/-! ### The frame of a completion -/

/-- Settles O24: a command ends in one of the two completions, and neither writes the fields listed. -/
theorem commandsLeaveEverythingElseUnchanged : Obligations.CommandsLeaveEverythingElseUnchanged := by
  intro i s
  rw [exec_eq_finish]
  obtain ⟨r, -, h⟩ | ⟨e, -, h⟩ := finish_cases (runOf i s.engine.latch) s
  · exact ⟨s.complete r, h, rfl, rfl, rfl, rfl, rfl, rfl, rfl, rfl, rfl, rfl, rfl, rfl⟩
  · exact ⟨s.raise e, h, rfl, rfl, rfl, rfl, rfl, rfl, rfl, rfl, rfl, rfl, rfl, rfl⟩

/-! ### Each command's row of the error table -/

/-- A command succeeds, or fails with an error of its row (60_exceptions.md R184). -/
def EndsAsListed (i : Instr) (s : State) : Prop := (∃ r, Succeeds i s r) ∨ ∃ e ∈ possibleErrors i, FailsWith i s e

section endsAsListed
variable {i : Instr} {s : State}

theorem EndsAsListed.of_succeeds {r : ResultRegs} (h : Succeeds i s r) : EndsAsListed i s := .inl ⟨r, h⟩

theorem EndsAsListed.of_failsWith {e : CmdError} (he : e ∈ possibleErrors i) (h : FailsWith i s e) :
    EndsAsListed i s := .inr ⟨e, he, h⟩

/-- A command that fails with KeyDerive's error, and else succeeds, ends as listed once its row holds the two errors
KeyDerive has (44_crt.md R148). -/
theorem EndsAsListed.of_keyDerive (hkey : .keyInvalid ∈ possibleErrors i) (hinv : .noModinv ∈ possibleErrors i)
    (hfail : ∀ {e}, keyDerive s.p s.q s.e = .error e → FailsWith i s e)
    (hok : ∀ {k}, keyDerive s.p s.q s.e = .ok k → ∃ r, Succeeds i s r) : EndsAsListed i s := by
  obtain h | h | ⟨k, h, -⟩ := keyDerive_cases s.p s.q s.e
  · exact .of_failsWith hkey (hfail h)
  · exact .of_failsWith hinv (hfail h)
  · exact .inl (hok h)

end endsAsListed

/-- CODEDEC succeeds on a valid code (40_code_decoder.md R102). -/
theorem codedec_endsAsListed (s : State) : EndsAsListed .codedec s := by
  by_cases hcode : ValidCode s.engine.latch.operands.opa s.engine.latch.operands.opb
  · exact .of_succeeds (codedecReadsTheCodeAsHexDigits s hcode)
  · obtain ⟨c, hc, hbad⟩ := not_forall₂.mp hcode
    exact .of_failsWith (by decide) (codedecRejectsEveryInvalidSymbol.1 s c hc hbad)

/-- MULMOD fails for the modulus 0 only (41_multiplier.md R112). -/
theorem mulmod_endsAsListed (s : State) : EndsAsListed .mulmod s := by
  obtain ⟨hreduced, hbad⟩ := mulmodReducesTheFullProduct s
  by_cases hc : s.c = 0
  · exact .of_failsWith (by decide) (hbad hc)
  · obtain ⟨r, h, -⟩ := hreduced hc
    exact .of_succeeds h

/-- MODPOW fails for the modulus 0 only (42_modpow.md R122). -/
theorem modpow_endsAsListed (s : State) : EndsAsListed .modpow s := by
  by_cases hc : s.c = 0
  · exact .of_failsWith (by decide) (modpowOfModulusOneAndZero.2.1 s hc)
  · exact .of_succeeds (modpow_succeeds hc)

/-- MODINV fails for the modulus 0 or a common divisor (43_extgcd.md R133). -/
theorem modinv_endsAsListed (s : State) : EndsAsListed .modinv s := by
  obtain ⟨hinverse, hbad, hno⟩ := modinvInvertsOrFails s
  by_cases hm : s.b = 0
  · exact .of_failsWith (by decide) (hbad hm)
  · by_cases hg : Nat.gcd s.a s.b = 1
    · obtain ⟨r, h, -⟩ := hinverse hm hg
      exact .of_succeeds h
    · exact .of_failsWith (by decide) (hno hm hg)

/-- DECODEPW fails in its first stage, or as KeyDerive does (46_decode_password.md R170). -/
theorem decodepw_endsAsListed (s : State) : EndsAsListed .decodepw s := by
  by_cases hcode : ValidCode s.engine.latch.operands.opa s.engine.latch.operands.opb
  · refine .of_keyDerive (by decide) (by decide) (decodepw_fails_of_keyDerive_eq_error hcode) fun hk => ?_
    obtain ⟨_, _, h, -⟩ := decodepwRunsTheWholePipeline s hcode (keyDerives_of_keyDerive_eq_ok hk)
    exact ⟨_, h⟩
  · exact .of_failsWith (by decide) ((decodepwFailsInStageOrder s).1 hcode)

/-- Settles O23: command by command, what it computes and when it fails. -/
theorem commandsEndOnlyWithTheirListedErrors : Obligations.CommandsEndOnlyWithTheirListedErrors := by
  intro i s
  change EndsAsListed i s
  cases i with
  | codedec => exact codedec_endsAsListed s
  | mul => obtain ⟨_, _, h, -⟩ := mulGivesTheExactProduct s; exact .of_succeeds h
  | mulmod => exact mulmod_endsAsListed s
  | modpow => exact modpow_endsAsListed s
  | extgcd => obtain ⟨_, _, _, h, -⟩ := extgcdGivesBezoutCoefficients s; exact .of_succeeds h
  | modinv => exact modinv_endsAsListed s
  | keyderive => exact .of_keyDerive (by decide) (by decide) keyderive_fails fun hk => ⟨_, keyderive_succeeds hk⟩
  | crtdec =>
    refine .of_keyDerive (by decide) (by decide) crtdec_fails fun hk => ?_
    obtain ⟨_, _, _, _, h, -⟩ := crtdec_succeeds hk
    exact ⟨_, h⟩
  | pwenc => obtain ⟨_, h, -⟩ := pwencMapsTheEightFields s; exact .of_succeeds h
  | decodepw => exact decodepw_endsAsListed s

/-- Settles O22: the code of each error, evaluated. -/
theorem errorCodesAreAsTabled : Obligations.ErrorCodesAreAsTabled := ⟨rfl, rfl, rfl, rfl, rfl⟩

/-! ### The interrupt output -/

section irq
variable (s : State)

@[simp] theorem State.irq_issue (v : Word) : (s.issue v).irq = false := Bool.and_false _

@[simp] theorem State.irq_complete (r : ResultRegs) : (s.complete r).irq = s.ie := Bool.and_true _

@[simp] theorem State.irq_raise (e : CmdError) : (s.raise e).irq = s.ie := Bool.and_true _

@[simp] theorem State.irq_writeStatus (v : Word) : (s.writeStatus v).irq = (s.irq && !v.getLsbD 1) :=
  (Bool.and_assoc ..).symm

end irq

/-- A bus error changes no state (20_memory.md R65). -/
theorem busAccess_state_of_error {a : Access} {s : State} (h : (busAccess a s).1 = .error) :
    (busAccess a s).2 = s := by
  obtain ⟨-, hb⟩ | ⟨_, -, ⟨-, hb⟩ | ⟨r, -, ⟨-, hb⟩ | ⟨v, -, hb⟩⟩⟩ := busAccess_cases a s <;> rw [hb] at h ⊢
  cases h

/-- Settles O17: irq is IE and DONE, and each event is known by what it does to these two. -/
theorem interruptFollowsCompletionAndEnable : Obligations.InterruptFollowsCompletionAndEnable := by
  refine ⟨fun s hb => ?completion, State.irq_writeStatus, fun s v hb => ?issue, fun s v => ⟨rfl, rfl⟩,
    fun s v hb => ?overrun, fun s a h => ?busError⟩
  case completion =>
    obtain ⟨r, h⟩ | ⟨e, h⟩ := engineStep_of_busy hb
    · exact ⟨_, h, s.irq_complete r⟩
    · exact ⟨_, h, s.irq_raise e⟩
  case issue => rw [writeReg_cmd_of_idle hb, State.irq_issue]
  case overrun => rw [writeReg_cmd_of_busy hb]; rfl
  case busError => rw [busAccess_state_of_error h]

/-! ### Issue through the step, and the command that runs next -/

/-- Settles O18: the access is the named write of CMD, which is dropped with OVERRUN or is an issue. -/
theorem cmdWriteIssuesOrOverruns : Obligations.CmdWriteIssuesOrOverruns := by
  intro s v rest
  have hstep := (step_access (.ofWrite .cmd v) rest s).trans (accessStep_ofWrite .cmd v _)
  refine ⟨fun hb => ?overrun, fun hb => ?issue⟩
  case overrun =>
    rw [writeReg_cmd_of_busy (s := { s with schedule := rest }) hb] at hstep
    exact hstep
  case issue =>
    rw [writeReg_cmd_of_idle (s := { s with schedule := rest }) hb, State.issue,
      BitVec.setWidth_eq_extractLsb' (by decide)] at hstep
    exact hstep

/-- A busy Engine with a legal word runs that command (60_exceptions.md R181). -/
theorem engineStep_of_decode_eq_ok {s : State} {i : Instr} (hb : s.engine.busy = true)
    (hd : decode s.engine.cmd = .ok i) : engineStep s = exec i s := by
  simp [engineStep, hb, hd]

/-- With an empty schedule there is no turn to take off (log entry 2). -/
theorem State.popTurn_of_schedule_nil {s : State} (h : s.schedule = []) : s.popTurn = s := by
  cases s
  cases h
  rfl

/-- With an empty schedule a busy Engine is next (log entry 2). -/
theorem nextTurn_of_schedule_nil_of_busy {s : State} (h : s.schedule = []) (hb : s.engine.busy = true) :
    nextTurn s = some .engine := by
  simp [nextTurn, h, hb]

/-- With an empty schedule, an idle Engine and the Host agent at its end, nothing is next (60_exceptions.md R195; log
entry 2). -/
theorem nextTurn_of_schedule_nil_of_idle {s : State} (h : s.schedule = []) (hb : s.engine.busy = false)
    (hr : hostRunning s.host = false) : nextTurn s = none := by
  simp [nextTurn, h, hb, hr]

/-- A step with a turn to take runs it on the state with the turn taken off. -/
theorem step_of_nextTurn_eq_some {s : State} {tn : Turn} (h : nextTurn s = some tn) :
    step s = runTurn tn s.popTurn := by
  simp [step, takeTurn, h]

/-- A step with no turn to take leaves the state as it is (60_exceptions.md R195). -/
theorem step_of_nextTurn_eq_none {s : State} (h : nextTurn s = none) : step s = .next s := by
  simp [step, takeTurn, h]

/-- Settles O19: scheduled or not, the turn is the Engine's, and the word it decodes is not the schedule's. -/
theorem stepRunsTheDecodedCommand : Obligations.StepRunsTheDecodedCommand := by
  intro s i hb hd
  have hengine : engineStep s.popTurn = exec i s.popTurn := engineStep_of_decode_eq_ok hb hd
  refine ⟨fun rest hs => ?scheduled, fun hs => ?unscheduled⟩
  case scheduled =>
    calc step s
      _ = exec i s.popTurn := (step_scheduled hs).trans hengine
      _ = exec i { s with schedule := rest } := by rw [State.popTurn, hs, List.tail_cons]
  case unscheduled =>
    calc step s
      _ = exec i s.popTurn := (step_of_nextTurn_eq_some (nextTurn_of_schedule_nil_of_busy hs hb)).trans hengine
      _ = exec i s := by rw [State.popTurn_of_schedule_nil hs]

/-- Placing a command's own encoding issues that command (30_encoding.md R80; log entry 3). -/
theorem withFetchWord_encode (i : Instr) (s : State) :
    s.withFetchWord 64 (encode i).toNat = s.issuedNext (encode i) := by
  rw [State.withFetchWord, Nat.mod_eq_of_lt (BitVec.isLt _), BitVec.ofNat_toNat, BitVec.setWidth_eq]

/-- Settles O20: the word issued decodes to its command, and taking the Engine's turn off leaves the issue's state. -/
theorem fetchWordRunsNext : Obligations.FetchWordRunsNext := by
  intro s i
  rw [withFetchWord_encode, step_issuedNext]
  exact engineStep_of_decode_eq_ok (s := s.issue (encode i)) rfl (decode_encode i)

/-! ### Who changes the block -/

/-- A delivered write is an access in the window, scheduled or the transaction of the Host's instruction
(20_memory.md R61, 30_encoding.md R88). -/
theorem DeliversWrite.inWindow {s : State} {r : Reg} {v : Word} (h : DeliversWrite s r v) :
    (∃ a, nextTurn s = some (.access a) ∧ a.InWindow) ∨
      (nextTurn s = some .host ∧
        ∃ i a, hostInstr s.host = some i ∧ hostTransaction s.host i = some a ∧ a.InWindow) := by
  have hw := Access.ofWrite_inWindow r v
  obtain hn | ⟨hn, hi | ⟨n, hi, rfl⟩⟩ := h
  · exact .inl ⟨_, hn, hw⟩
  · exact .inr ⟨hn, _, _, hi, rfl, hw⟩
  · exact .inr ⟨hn, _, _, hi, rfl, hw⟩

/-- Settles O29: with no turn next nothing happens; and of the effects of a step only a delivered write, a completion
and a reset change the block. -/
theorem idleBlockKeepsItsState : Obligations.IdleBlockKeepsItsState := by
  refine ⟨fun s hs hb hr => step_of_nextTurn_eq_none (nextTurn_of_schedule_nil_of_idle hs hb hr),
    fun s t h hchange => ?_⟩
  cases step_effect h with
  | unchanged same => exact absurd same hchange
  | write r v delivered _ _ =>
    obtain haccess | hhost := delivered.inWindow
    · exact .inl haccess
    · exact .inr (.inl hhost)
  | complete r turn busy _ => exact .inr (.inr (.inr ⟨turn, busy⟩))
  | raise e turn busy _ => exact .inr (.inr (.inr ⟨turn, busy⟩))
  | reset turn _ => exact .inr (.inr (.inl turn))

/-! ### Hazards and reset -/

/-- How the command in the Engine ends, from the latched word and operands alone (60_exceptions.md R181, R182). -/
def Engine.outcome (e : Engine) : Except CmdError ResultRegs :=
  match decode e.cmd with
  | .ok i => runOf i e.latch
  | .error _ => .error .illegalCommand

/-- A busy Engine's step is the end its latched word and operands give (10_state.md R40). -/
theorem engineStep_eq_finish_outcome {s : State} (hb : s.engine.busy = true) :
    engineStep s = finish s.engine.outcome s := by
  obtain ⟨hidle, -⟩ | ⟨-, ⟨e, hd⟩, h⟩ | ⟨-, i, hd, h⟩ := engineStep_cases s
  · simp [hb] at hidle
  · rw [h, Engine.outcome, hd, finish_error]
  · rw [h, Engine.outcome, hd, exec_eq_finish]

/-- A write of a register that is neither CMD nor STATUS commutes with the end of a command: the two write different
fields, or the register is read-only. -/
theorem finish_writeReg_comm {r : Reg} (hcmd : r ≠ .cmd) (hstatus : r ≠ .status) (v : Word) (s : State)
    (c : Except CmdError ResultRegs) :
    ∃ t, finish c s = .next t ∧ finish c (writeReg r v s) = .next (writeReg r v t) := by
  cases r
  case cmd | status => contradiction
  all_goals
    cases c with
    | ok x => exact ⟨s.complete x, rfl, rfl⟩
    | error e => exact ⟨s.raise e, rfl, rfl⟩

/-- Settles O26: the write does not reach the Engine, so the command ends alike and its end commutes with the write. -/
theorem writesAfterIssueAffectOnlyLaterCommands : Obligations.WritesAfterIssueAffectOnlyLaterCommands := by
  intro s v hb r hr
  have hcmd : r ≠ .cmd := by rintro rfl; simp at hr
  have hstatus : r ≠ .status := by rintro rfl; simp at hr
  have hengine : (writeReg r v s).engine = s.engine := writeReg_engine_of_ne_cmd hcmd
  rw [engineStep_eq_finish_outcome hb, engineStep_eq_finish_outcome (hengine ▸ hb), hengine]
  exact finish_writeReg_comm hcmd hstatus v s s.engine.outcome

/-- Settles O4: the reset turn replaces the block by its reset state and keeps the rest. -/
theorem resetAbandonsARunningCommand : Obligations.ResetAbandonsARunningCommand :=
  fun s => ⟨s.resetBlock, rfl, .refl State.reset, rfl, rfl, rfl⟩

end Sys2Proof.Machine
